-- ==== Sys2Proof/Word.lean ====
section
/-!
DEFINITION. The words of the machine.
Every number is unsigned (00_scope.md R9); the widths are those of 00_scope.md R8 (decisions D5, D6, D7).
-/

namespace Sys2Proof

/-- An operand, a data register, an LCD byte: OPERAND_W = 8 bits (R8, D5). -/
abbrev Byte := BitVec 8

/-- A pin identifier: PIN_ID_W = 8 bits (R8, R50, D6). -/
abbrev PinId := BitVec 8

/-- The value of a 4-bit transfer (42_transfer_primitives.md R153). -/
abbrev Nibble := BitVec 4

/-- A delay count in microseconds: DELAY_W = 32 bits (R8, R52, D7). -/
abbrev DelayCount := BitVec 32

end Sys2Proof
end

