-- ==== Sys2Proof/Config.lean ====
section
/-!
DEFINITION. What an instance of the engine fixes: the shapes of its two parameter records.
LcdCodes is an open parameter: every rule takes the record as an argument, and a machine carries its own in `State.codes`
(log 1, 21).
The values stand where a repair may change them: the defaults `lcdCodes` in Decode.lean, `timing` in Machine/Operands.lean.
The open parameters CLK_HZ and MAX_PKT (00_scope.md R8, D2, D20) enter no rule and have no field (log 5, 6).
-/

namespace Sys2Proof

/-- The LcdCodes record (30_encoding.md R88): every numeric code of the HD44780 command set that the engine uses.
A parameter with the defaults `lcdCodes` (00_scope.md R8, 92_eei_decisions.md D30). -/
structure LcdCodes where
  CLEARDISPLAY     : Byte
  RETURNHOME       : Byte
  ENTRYMODESET     : Byte
  ENTRY_LEFT       : Byte
  ENTRY_SHIFT      : Byte
  DISPLAYCONTROL   : Byte
  DISPLAY_ON       : Byte
  CURSOR_ON        : Byte
  BLINK_ON         : Byte
  CURSORSHIFT      : Byte
  DISPLAY_MOVE     : Byte
  MOVE_RIGHT       : Byte
  FUNCTIONSET      : Byte
  BUS_8BIT         : Byte
  LINES_2          : Byte
  FONT_5x10        : Byte
  SETCGRAMADDR     : Byte
  SETDDRAMADDR     : Byte
  ROW_BASE0        : Byte
  ROW_BASE1        : Byte
  CGRAM_SLOT_SHIFT : Nat
  deriving DecidableEq, Repr

/-- The seven delay counts (00_scope.md R8, 60_exceptions.md R226), in microseconds. -/
structure Timing where
  T_POWER      : DelayCount
  T_INIT_LONG  : DelayCount
  T_INIT_SHORT : DelayCount
  T_CLEAR      : DelayCount
  T_E_SETUP    : DelayCount
  T_E_HIGH     : DelayCount
  T_E_SETTLE   : DelayCount
  deriving DecidableEq, Repr

end Sys2Proof
end

