-- ==== Sys2Proof/Syntax.lean ====
section
/-!
DEFINITION. The instructions: one constructor for each row of spec/opcode_table.json.
-/

namespace Sys2Proof

/-- The two encoding spaces of the opcode table (30_encoding.md, its opening paragraph): host packets, which reach the
engine on its host port, and LCD command bytes, which the engine sends on the data lines with register-select low. -/
inductive Space where
  | hostPacket
  | lcdCommand
  deriving DecidableEq, Repr

/-- An instruction.
The first twenty are the host operations of 00_scope.md R5 with the operands of 30_encoding.md R81.
The last eight are the LCD command bytes of 30_encoding.md R89, the units of SendCommand
(42_transfer_primitives.md R156); they have no host packet (R87 (c)) and run inside the host operations (log 10). -/
inductive Instr where
  /-- CONSTRUCT (40_lifecycle.md R121); `rw` is `none` when rwen = 0, the rw byte being ignored then (R83). -/
  | construct (rs : PinId) (rw : Option PinId) (en : PinId) (d : List PinId)
  /-- INIT (41_initialization.md R131). -/
  | init (columns lines dotSize : Byte)
  /-- CLEAR (43_display_commands.md R171). -/
  | clear
  /-- HOME (R172). -/
  | home
  /-- SETCURSOR (R173). -/
  | setCursor (col row : Byte)
  /-- DISPLAY (44_flag_commands.md R181). -/
  | display
  /-- NODISPLAY (R182). -/
  | noDisplay
  /-- CURSOR (R183). -/
  | cursor
  /-- NOCURSOR (R184). -/
  | noCursor
  /-- BLINK (R185). -/
  | blink
  /-- NOBLINK (R186). -/
  | noBlink
  /-- SCROLLLEFT (43_display_commands.md R174). -/
  | scrollLeft
  /-- SCROLLRIGHT (R175). -/
  | scrollRight
  /-- LEFTTORIGHT (44_flag_commands.md R187). -/
  | leftToRight
  /-- RIGHTTOLEFT (R188). -/
  | rightToLeft
  /-- AUTOSCROLL (R189). -/
  | autoscroll
  /-- NOAUTOSCROLL (R190). -/
  | noAutoscroll
  /-- CREATECHAR (45_data_commands.md R201). -/
  | createChar (location : Byte) (bitmap : List Byte)
  /-- PRINT (R202). -/
  | print (text : List Byte)
  /-- DISPOSE (40_lifecycle.md R122). -/
  | dispose
  /-- LCD.CLEARDISPLAY, the byte 0000 0001 (30_encoding.md R89). -/
  | lcdClearDisplay
  /-- LCD.RETURNHOME, the byte 0000 0010 (R89). -/
  | lcdReturnHome
  /-- LCD.ENTRYMODESET, the byte 0000 01 ID S (R89, R92). -/
  | lcdEntryModeSet (left shift : Bool)
  /-- LCD.DISPLAYCONTROL, the byte 0000 1 D C B (R89, R91). -/
  | lcdDisplayControl (d c b : Bool)
  /-- LCD.CURSORSHIFT, the byte 0001 SC RL 00 (R89, R95). -/
  | lcdCursorShift (sc rl : Bool)
  /-- LCD.FUNCTIONSET, the byte 001 DL N F 00 (R89, R90). -/
  | lcdFunctionSet (dl n f : Bool)
  /-- LCD.SETCGRAMADDR, the byte 01 and a 6-bit CGRAM address (R89, R94). -/
  | lcdSetCgramAddr (addr : BitVec 6)
  /-- LCD.SETDDRAMADDR, the byte 1 and a 7-bit DDRAM address (R89, R93). -/
  | lcdSetDdramAddr (addr : BitVec 7)
  deriving DecidableEq, Repr

/-- Which of the two encoding spaces an instruction belongs to (the table's "space" column). -/
def Instr.space : Instr → Space
  | .lcdClearDisplay | .lcdReturnHome | .lcdEntryModeSet _ _ | .lcdDisplayControl _ _ _ | .lcdCursorShift _ _
  | .lcdFunctionSet _ _ _ | .lcdSetCgramAddr _ | .lcdSetDdramAddr _ => .lcdCommand
  | .construct _ _ _ _ | .init _ _ _ | .clear | .home | .setCursor _ _ | .display | .noDisplay | .cursor | .noCursor
  | .blink | .noBlink | .scrollLeft | .scrollRight | .leftToRight | .rightToLeft | .autoscroll | .noAutoscroll
  | .createChar _ _ | .print _ | .dispose => .hostPacket

end Sys2Proof
end

