-- ==== Sys2Proof/Decode.lean ====
section
/-!
DEFINITION. The two encodings of 30_encoding.md: the decoder of host packets (R80 to R85), the LCD command bytes under any
LcdCodes record and the record's default values (R88 to R95), and the encoders written from the same tables.
The record is a parameter (00_scope.md R8); the forms without one, `decodeLcd` and `encode`, take the defaults.
-/

namespace Sys2Proof

/-! ## LCD command bytes -/

/-- The default values of the LcdCodes record (R88): what an instance is given unless it is given another record.
PRESUMED (log 1): the spec itself marks every value as general knowledge. -/
def lcdCodes : LcdCodes where
  CLEARDISPLAY     := 0x01
  RETURNHOME       := 0x02
  ENTRYMODESET     := 0x04
  ENTRY_LEFT       := 0x02
  ENTRY_SHIFT      := 0x01
  DISPLAYCONTROL   := 0x08
  DISPLAY_ON       := 0x04
  CURSOR_ON        := 0x02
  BLINK_ON         := 0x01
  CURSORSHIFT      := 0x10
  DISPLAY_MOVE     := 0x08
  MOVE_RIGHT       := 0x04
  FUNCTIONSET      := 0x20
  BUS_8BIT         := 0x10
  LINES_2          := 0x08
  FONT_5x10        := 0x04
  SETCGRAMADDR     := 0x40
  SETDDRAMADDR     := 0x80
  ROW_BASE0        := 0x00
  ROW_BASE1        := 0x40
  CGRAM_SLOT_SHIFT := 3

/-- A flag bit of a command byte: the code when the flag is 1, else 0 ("OR-combined bitwise", R90). -/
def flagBit (on : Bool) (code : Byte) : Byte := if on then code else 0

/-- The byte of an LCD command, assembled from an LcdCodes record (R90 to R95); a host operation has none (0). -/
def lcdByte (c : LcdCodes) : Instr → Byte
  | .lcdClearDisplay => c.CLEARDISPLAY
  | .lcdReturnHome => c.RETURNHOME
  | .lcdEntryModeSet left shift => c.ENTRYMODESET ||| flagBit left c.ENTRY_LEFT ||| flagBit shift c.ENTRY_SHIFT
  | .lcdDisplayControl d k b =>
    c.DISPLAYCONTROL ||| flagBit d c.DISPLAY_ON ||| flagBit k c.CURSOR_ON ||| flagBit b c.BLINK_ON
  | .lcdCursorShift sc rl => c.CURSORSHIFT ||| flagBit sc c.DISPLAY_MOVE ||| flagBit rl c.MOVE_RIGHT
  | .lcdFunctionSet dl n f =>
    c.FUNCTIONSET ||| flagBit dl c.BUS_8BIT ||| flagBit n c.LINES_2 ||| flagBit f c.FONT_5x10
  | .lcdSetCgramAddr addr => c.SETCGRAMADDR ||| addr.setWidth 8
  | .lcdSetDdramAddr addr => c.SETDDRAMADDR ||| addr.setWidth 8
  | .construct _ _ _ _ | .init _ _ _ | .clear | .home | .setCursor _ _ | .display | .noDisplay | .cursor | .noCursor
  | .blink | .noBlink | .scrollLeft | .scrollRight | .leftToRight | .rightToLeft | .autoscroll | .noAutoscroll
  | .createChar _ _ | .print _ | .dispose => 0

/-- Whether a byte has all bits of a flag code. -/
def hasFlag (v code : Byte) : Bool := v &&& code == code

/-- What a byte would be as each of the eight LCD commands, its fields read where the record's codes put them, in the order
of R89 from the highest set bit down. -/
def lcdReadings (c : LcdCodes) (v : Byte) : List Instr :=
  [.lcdSetDdramAddr (v.extractLsb' 0 7), .lcdSetCgramAddr (v.extractLsb' 0 6),
    .lcdFunctionSet (hasFlag v c.BUS_8BIT) (hasFlag v c.LINES_2) (hasFlag v c.FONT_5x10),
    .lcdCursorShift (hasFlag v c.DISPLAY_MOVE) (hasFlag v c.MOVE_RIGHT),
    .lcdDisplayControl (hasFlag v c.DISPLAY_ON) (hasFlag v c.CURSOR_ON) (hasFlag v c.BLINK_ON),
    .lcdEntryModeSet (hasFlag v c.ENTRY_LEFT) (hasFlag v c.ENTRY_SHIFT), .lcdReturnHome, .lcdClearDisplay]

/-- The LCD instruction a command byte stands for under an LcdCodes record: the first reading whose byte it is, so that the
byte of the instruction is the byte read, whatever the codes; `none` for a byte that no LCD command has. -/
def decodeLcdWith (c : LcdCodes) (v : Byte) : Option Instr := (lcdReadings c v).find? fun i => lcdByte c i == v

/-- The same with the default codes, in which spec/opcode_table.json prints the LCD rows: the layouts of R89. -/
def decodeLcd (v : Byte) : Option Instr := decodeLcdWith lcdCodes v

/-! ## Host packets -/

/-- A packet (R80): the opcode byte and the operand bytes; its length L is `args.length + 1`, so L ≥ 1 by construction.
There is no upper bound MAX_PKT (log 5). -/
structure Packet where
  op   : Byte
  args : List Byte
  deriving DecidableEq, Repr

/-- Why bytes carry no instruction (R83). -/
inductive DecodeError where
  /-- No byte at all: no packet of the host port (R80: L ≥ 1); only `decodeBytes` answers it, never a step (log 12). -/
  | emptyPacket
  /-- Byte 0 is 0x00 or 0x15 to 0xFF (R83 (1), R84). -/
  | illegalOpcode
  /-- The length does not fit the format, or rwen is neither 0 nor 1 (R83 (2)). -/
  | formatError
  deriving DecidableEq, Repr

/-- Format Z (R81): L = 1. -/
def formatZ (i : Instr) : List Byte → Except DecodeError Instr
  | [] => .ok i
  | _ :: _ => .error .formatError

/-- Format I (R81): L = 4. -/
def formatI : List Byte → Except DecodeError Instr
  | [columns, lines, dotSize] => .ok (.init columns lines dotSize)
  | _ => .error .formatError

/-- Format S (R81): L = 3. -/
def formatS : List Byte → Except DecodeError Instr
  | [col, row] => .ok (.setCursor col row)
  | _ => .error .formatError

/-- Format K (R81): L ≥ 5; rwen must be 0 or 1, and the rw byte is ignored when it is 0 (R83, R84). -/
def formatK : List Byte → Except DecodeError Instr
  | rs :: rwen :: rw :: en :: d =>
    if rwen = 0 then .ok (.construct rs none en d)
    else if rwen = 1 then .ok (.construct rs (some rw) en d)
    else .error .formatError
  | _ => .error .formatError

/-- Format G (R81): L ≥ 2. -/
def formatG : List Byte → Except DecodeError Instr
  | location :: bitmap => .ok (.createChar location bitmap)
  | [] => .error .formatError

/-- Format P (R81): L ≥ 1. -/
def formatP (text : List Byte) : Except DecodeError Instr := .ok (.print text)

/-- Decoding a packet: the opcode map (R82), then the length check of the opcode's format (R83 (1), (2)).
The phase and the argument checks (R83 (3), (4)) belong to the meanings. -/
def decodePacket (p : Packet) : Except DecodeError Instr :=
  match p.op.toNat with
  | 0x01 => formatK p.args
  | 0x02 => formatI p.args
  | 0x03 => formatZ .clear p.args
  | 0x04 => formatZ .home p.args
  | 0x05 => formatS p.args
  | 0x06 => formatZ .display p.args
  | 0x07 => formatZ .noDisplay p.args
  | 0x08 => formatZ .cursor p.args
  | 0x09 => formatZ .noCursor p.args
  | 0x0A => formatZ .blink p.args
  | 0x0B => formatZ .noBlink p.args
  | 0x0C => formatZ .scrollLeft p.args
  | 0x0D => formatZ .scrollRight p.args
  | 0x0E => formatZ .leftToRight p.args
  | 0x0F => formatZ .rightToLeft p.args
  | 0x10 => formatZ .autoscroll p.args
  | 0x11 => formatZ .noAutoscroll p.args
  | 0x12 => formatG p.args
  | 0x13 => formatP p.args
  | 0x14 => formatZ .dispose p.args
  | _ => .error .illegalOpcode

/-- Decoding any byte sequence as a host packet. -/
def decodeBytes : List Byte → Except DecodeError Instr
  | [] => .error .emptyPacket
  | op :: args => decodePacket ⟨op, args⟩

/-- Decoding bytes in one of the two spaces of the table; an LCD command is exactly one byte. -/
def decodeIn : Space → List Byte → Option Instr
  | .hostPacket, bytes => (decodeBytes bytes).toOption
  | .lcdCommand, [v] => decodeLcd v
  | .lcdCommand, _ => none

/-! ## Encoders -/

/-- The packet of a host operation (R82, R86; the rw byte is 0x00 when the line is absent), or the one byte of an LCD command
(R90 to R95). -/
def encodeWith (c : LcdCodes) : Instr → List Byte
  | .construct rs none en d => 0x01 :: rs :: 0x00 :: 0x00 :: en :: d
  | .construct rs (some rw) en d => 0x01 :: rs :: 0x01 :: rw :: en :: d
  | .init columns lines dotSize => [0x02, columns, lines, dotSize]
  | .clear => [0x03]
  | .home => [0x04]
  | .setCursor col row => [0x05, col, row]
  | .display => [0x06]
  | .noDisplay => [0x07]
  | .cursor => [0x08]
  | .noCursor => [0x09]
  | .blink => [0x0A]
  | .noBlink => [0x0B]
  | .scrollLeft => [0x0C]
  | .scrollRight => [0x0D]
  | .leftToRight => [0x0E]
  | .rightToLeft => [0x0F]
  | .autoscroll => [0x10]
  | .noAutoscroll => [0x11]
  | .createChar location bitmap => 0x12 :: location :: bitmap
  | .print text => 0x13 :: text
  | .dispose => [0x14]
  | .lcdClearDisplay => [lcdByte c .lcdClearDisplay]
  | .lcdReturnHome => [lcdByte c .lcdReturnHome]
  | .lcdEntryModeSet left shift => [lcdByte c (.lcdEntryModeSet left shift)]
  | .lcdDisplayControl d k b => [lcdByte c (.lcdDisplayControl d k b)]
  | .lcdCursorShift sc rl => [lcdByte c (.lcdCursorShift sc rl)]
  | .lcdFunctionSet dl n f => [lcdByte c (.lcdFunctionSet dl n f)]
  | .lcdSetCgramAddr addr => [lcdByte c (.lcdSetCgramAddr addr)]
  | .lcdSetDdramAddr addr => [lcdByte c (.lcdSetDdramAddr addr)]

/-- The same with the default codes. -/
def encode : Instr → List Byte := encodeWith lcdCodes

/-- The assembler's two-operand form `INIT columns, lines` (R87 (a)): dotSize 0. -/
def Instr.initTwoOperands (columns lines : Byte) : Instr := .init columns lines 0

/-- The bytes of a quoted text (45_data_commands.md R203): the ASCII code of each character 0x20 to 0x7E, and `none` for a
text with any other character, which the assembler takes only as numbers. -/
def asciiBytes : List Char → Option (List Byte)
  | [] => some []
  | c :: cs =>
    if 0x20 ≤ c.toNat ∧ c.toNat ≤ 0x7E then (asciiBytes cs).map (BitVec.ofNat 8 c.toNat :: ·) else none

/-! ## The table's words -/

/-- The shortest length at which the opcode's packet is well formed: the operand bytes its format asks for, with four data
pins for CONSTRUCT and eight bitmap bytes for CREATECHAR (log 11). -/
def tableLength (op : Nat) : Nat :=
  match op with
  | 0x01 => 9
  | 0x02 => 4
  | 0x05 => 3
  | 0x12 => 10
  | _ => 1

/-- The bytes of a table word, the first byte in the low bits, with zero operand bytes up to `tableLength`. -/
def tableBytes (nbits w : Nat) : List Byte :=
  (List.range (max ((nbits + 7) / 8) (tableLength (w % 256)))).map fun i => BitVec.ofNat 8 (w >>> (8 * i))

/-- The LCD command a table word is read as: one byte that no host operation claims (log 10). -/
def tableWordLcd (nbits w : Nat) : Option Instr :=
  if (decodeIn .hostPacket (tableBytes nbits w)).isNone && nbits ≤ 8 then decodeLcd (BitVec.ofNat 8 w) else none

/-- The instruction of a table word: the host packet's, else the LCD command's.
A number that stands in both spaces of the table (0x01 to 0x14) is the host operation (log 10). -/
def decodeTableWord (nbits w : Nat) : Option Instr :=
  (tableWordLcd nbits w).or (decodeIn .hostPacket (tableBytes nbits w))

end Sys2Proof
end

