-- ==== Sys2Proof/Machine/State.lean ====
section
/-!
DEFINITION. The state of the machine (10_state.md, 20_memory.md R53 and R55), its reset value, and the reasons a step can
stop (there are none, log 14).
-/

namespace Sys2Proof.Machine

/-- A line level: `true` is high (1), `false` is low (0) (00_scope.md R11). -/
abbrev Level := Bool

/-- A line direction (00_scope.md R11). -/
inductive Dir where
  | input
  | output
  deriving DecidableEq, Repr

/-- The three event kinds of the output trace (00_scope.md R11, 30_encoding.md R98).
`readLevel` is never issued and has no constructor (93_implementation_defined.md U16). -/
inductive Event where
  /-- `Cfg(p, d)`: configureDirection. -/
  | cfg (p : PinId) (d : Dir)
  /-- `Wr(p, l)`: writeLevel. -/
  | wr (p : PinId) (l : Level)
  /-- `Delay(n)`: delayMicroseconds. -/
  | delay (n : DelayCount)
  deriving DecidableEq, Repr

/-- One unit of a command's program: a statement of the rules' pseudocode that the sequencer has not run yet.
The calls are the micro-operations the instruction rules call (42_transfer_primitives.md R153, R156, R157). -/
inductive Micro where
  /-- `emit e` (00_scope.md R11). -/
  | emit (e : Event)
  /-- `SendCommand(v)` (R156): an LCD command byte. -/
  | sendCommand (v : Byte)
  /-- `SendCharacter(v)` (R157): a data byte. -/
  | sendCharacter (v : Byte)
  /-- `Write4(x)` (R153), called directly only by INIT step 6. -/
  | write4 (x : Nibble)
  deriving DecidableEq, Repr

/-- PHASE (10_state.md R26); its reserved value 3 is never stored and has no constructor (U15). -/
inductive Phase where
  | unconfigured
  | configured
  | ready
  deriving DecidableEq, Repr

/-- ERR, the result code of the most recent command (10_state.md R28, 60_exceptions.md R211). -/
inductive ResultCode where
  | ok
  | configError
  | invalidArgument
  /-- Reserved for the Pin Capability's range error; no rule sets it (R218). -/
  | rangeError
  | illegalOpcode
  | formatError
  | phaseError
  | rowUnderflow
  deriving DecidableEq, Repr

/-- PA_N and PA_D[0..7] (10_state.md R24): 4 or 8 data pins, no other number; PA_D[PA_N..7] hold `none`. -/
inductive DataLines where
  | four (d0 d1 d2 d3 : PinId)
  | eight (d0 d1 d2 d3 d4 d5 d6 d7 : PinId)
  deriving DecidableEq, Repr

/-- The Pin Assignment registers (10_state.md R24), written all together by CONSTRUCT. -/
structure PinAssignment where
  /-- PA_RS. -/
  rs   : PinId
  /-- PA_RWEN and PA_RW: PA_RW holds `none` when PA_RWEN = 0. -/
  rw   : Option PinId
  /-- PA_E. -/
  en   : PinId
  /-- PA_N and PA_D. -/
  data : DataLines
  deriving DecidableEq, Repr

/-- The data registers (10_state.md R20 to R23), all first written by INIT. -/
structure DataRegs where
  /-- FUNC (R20): bits 4 DL, 3 N, 2 F. -/
  func   : Byte
  /-- DCTRL (R21): bits 2 D, 1 C, 0 B. -/
  dctrl  : Byte
  /-- EMODE (R22): bits 1 ID, 0 S. -/
  emode  : Byte
  /-- NLINES (R23). -/
  nlines : Byte
  /-- ROWOFF[0..3] (R23). -/
  rowoff : Vector Byte 4
  deriving DecidableEq, Repr

/-- PHASE together with the registers that hold a value in it (10_state.md R26, R31): in UNCONFIGURED every register is
`none`, in CONFIGURED the data registers are, in READY none is (log 2). -/
inductive Lifecycle where
  | unconfigured
  | configured (pa : PinAssignment)
  | ready (pa : PinAssignment) (regs : DataRegs)
  deriving DecidableEq, Repr

/-- The direction and level latches of one line (20_memory.md R55); `none` is the rule's `unknown`. -/
structure PinLatch where
  dir : Option Dir
  lvl : Option Level
  deriving DecidableEq, Repr

/-- The latches of the pin-identifier space (20_memory.md R50, R55), the only address space the engine accesses: pairs of an
identifier and its latches, in the canonical form `Memory.wf`. -/
abbrev Memory := List (Nat × PinLatch)

/-- One byte on the host port: `cmd_data` and `cmd_last` (20_memory.md R53). -/
structure Beat where
  data : Byte
  last : Bool
  deriving DecidableEq, Repr

/-- The state of the machine. -/
structure State where
  /-- The LcdCodes record this engine is built with (30_encoding.md R88, 00_scope.md R8): a parameter of the instance, which no
  step writes and no reset touches (log 1, 21). -/
  codes   : LcdCodes
  /-- The reset line (70_reset_and_hazards.md R240), an input: no step writes it. -/
  rst     : Bool
  /-- The bytes the host has still to deliver on the host port (20_memory.md R53), an input of the model's own (log 4). -/
  hostIn  : List Beat
  /-- PHASE, the Pin Assignment and the data registers (10_state.md R20 to R26, R31). -/
  life    : Lifecycle
  /-- ERR (R28). -/
  err     : ResultCode
  /-- BUSY (R28). -/
  busy    : Bool
  /-- What is left of the command in progress, the sequencer position SEQ (R27, R36) (log 3). -/
  pending : List Micro
  /-- The Pin Capability's latches (20_memory.md R55). -/
  pins    : Memory
  /-- The output trace: the events issued since reset, in order (00_scope.md R11, R15). -/
  trace   : List Event
  deriving DecidableEq, Repr

/-- The machine right after reset (10_state.md R32, 70_reset_and_hazards.md R240, R241): UNCONFIGURED, ERR = 0, BUSY = 0,
every other register `none`, the trace empty, every latch unknown.
The two inputs are the model's choice (log 18): the reset line is low again and the host has sent nothing.
The codes are the defaults of 30_encoding.md R88 (PRESUMED, log 1). -/
def State.reset : State where
  codes   := lcdCodes
  rst     := false
  hostIn  := []
  life    := .unconfigured
  err     := .ok
  busy    := false
  pending := []
  pins    := []
  trace   := []

/-- The faults of a step: none.
The spec gives the engine no trap and no stuck state; a refused command is a next state with its code in ERR
(60_exceptions.md R210, R212) (log 14). -/
inductive Fault where
  deriving DecidableEq, Repr

/-- The refusals of a step. -/
inductive Refusal where
  /-- Raised by an arm of `exec` whose instruction has no meaning yet; no arm of this model raises it.
  Safe: the machine stops instead of going on. -/
  | notModelled (mnemonic : String)
  deriving DecidableEq, Repr

end Sys2Proof.Machine
end

