-- ==== Sys2Proof/Machine/Registers.lean ====
section
/-!
DEFINITION. Reading the registers by the names 10_state.md gives them.
-/

namespace Sys2Proof.Machine

/-- The assigned data pins PA_D[0..PA_N-1], in order (10_state.md R24). -/
def DataLines.toList : DataLines → List PinId
  | .four d0 d1 d2 d3 => [d0, d1, d2, d3]
  | .eight d0 d1 d2 d3 d4 d5 d6 d7 => [d0, d1, d2, d3, d4, d5, d6, d7]

/-- The data pins of a list, when it has 4 or 8 entries (40_lifecycle.md R121: any other count is a ConfigError). -/
def DataLines.ofList : List PinId → Option DataLines
  | [d0, d1, d2, d3] => some (.four d0 d1 d2 d3)
  | [d0, d1, d2, d3, d4, d5, d6, d7] => some (.eight d0 d1 d2 d3 d4 d5 d6 d7)
  | _ => none

/-- PA_N = 8, which is the bus width (40_lifecycle.md R123). -/
def DataLines.is8 : DataLines → Bool
  | .four _ _ _ _ => false
  | .eight _ _ _ _ _ _ _ _ => true

/-- PA_N (10_state.md R24). -/
def PinAssignment.n (pa : PinAssignment) : Nat := if pa.data.is8 then 8 else 4

/-- PA_RWEN (R24). -/
def PinAssignment.rwen (pa : PinAssignment) : Bool := pa.rw.isSome

/-- PA_D[i] (R24); `none` from PA_N on. -/
def PinAssignment.d (pa : PinAssignment) (i : Nat) : Option PinId := pa.data.toList[i]?

/-- The owned pins in the order of INIT step 2 and of DISPOSE: RS, RW if present, E, D[0..PA_N-1]
(40_lifecycle.md R122, 41_initialization.md R134). -/
def PinAssignment.owned (pa : PinAssignment) : List PinId :=
  pa.rs :: (pa.rw.toList ++ pa.en :: pa.data.toList)

/-- PHASE (10_state.md R26). -/
def Lifecycle.phase : Lifecycle → Phase
  | .unconfigured => .unconfigured
  | .configured _ => .configured
  | .ready _ _ => .ready

/-- The Pin Assignment registers, `none` in UNCONFIGURED (R31). -/
def Lifecycle.pins : Lifecycle → Option PinAssignment
  | .unconfigured => none
  | .configured pa => some pa
  | .ready pa _ => some pa

/-- The data registers, `none` outside READY (R31). -/
def Lifecycle.regs : Lifecycle → Option DataRegs
  | .unconfigured => none
  | .configured _ => none
  | .ready _ r => some r

/-- PHASE of a state. -/
def State.phase (s : State) : Phase := s.life.phase

/-- FUNC (10_state.md R20). -/
def State.func (s : State) : Option Byte := s.life.regs.map DataRegs.func

/-- DCTRL (R21). -/
def State.dctrl (s : State) : Option Byte := s.life.regs.map DataRegs.dctrl

/-- EMODE (R22). -/
def State.emode (s : State) : Option Byte := s.life.regs.map DataRegs.emode

/-- NLINES (R23). -/
def State.nlines (s : State) : Option Byte := s.life.regs.map DataRegs.nlines

/-- ROWOFF[0..3] (R23). -/
def State.rowoff (s : State) : Option (Vector Byte 4) := s.life.regs.map DataRegs.rowoff

/-- The encoding of PHASE (R26). -/
def Phase.toBits : Phase → BitVec 2
  | .unconfigured => 0
  | .configured => 1
  | .ready => 2

/-- The encoding of ERR (60_exceptions.md R211). -/
def ResultCode.toBits : ResultCode → BitVec 3
  | .ok => 0
  | .configError => 1
  | .invalidArgument => 2
  | .rangeError => 3
  | .illegalOpcode => 4
  | .formatError => 5
  | .phaseError => 6
  | .rowUnderflow => 7

end Sys2Proof.Machine
end

