-- ==== Sys2Proof/Machine/Flags.lean ====
section
/-!
DEFINITION. The flag registers: how FUNC is computed (41_initialization.md R133), how one bit of DCTRL or EMODE is set or
cleared (44_flag_commands.md R180), and the command byte each register is sent in (30_encoding.md R90 to R92), all written
against the names of the LcdCodes record `c`.
-/

namespace Sys2Proof.Machine

/-- FUNC as INIT computes it (R131 step 1, R133): DL = (PA_N = 8), N = (lines > 1), F = (dotSize ≠ 0 and lines ≤ 1). -/
def functionFlags (c : LcdCodes) (pa : PinAssignment) (lines dotSize : Byte) : Byte :=
  flagBit pa.data.is8 c.BUS_8BIT
    ||| flagBit (decide (1 < lines.toNat)) c.LINES_2
    ||| flagBit (decide (dotSize ≠ 0 ∧ lines.toNat ≤ 1)) c.FONT_5x10

/-- `reg | bit`: one flag set, the others as they are (R180). -/
def setFlag (reg bit : Byte) : Byte := reg ||| bit

/-- `reg & ~bit`: one flag cleared, the others as they are (R180). -/
def clearFlag (reg bit : Byte) : Byte := reg &&& ~~~bit

/-- The function-set byte FS (30_encoding.md R90). -/
def functionSetByte (c : LcdCodes) (func : Byte) : Byte := c.FUNCTIONSET ||| func

/-- The display-control byte DC (R91). -/
def displayControlByte (c : LcdCodes) (dctrl : Byte) : Byte := c.DISPLAYCONTROL ||| dctrl

/-- The entry-mode byte EM (R92). -/
def entryModeByte (c : LcdCodes) (emode : Byte) : Byte := c.ENTRYMODESET ||| emode

end Sys2Proof.Machine
end

