-- ==== Sys2Proof/Machine/Operands.lean ====
section
/-!
DEFINITION. Operand arithmetic: the row offsets, the row clamp and the DDRAM address, the CGRAM address, the shift bytes, the
split of a byte into nibbles, and the delay counts.
The codes are those of the LcdCodes record `c` (30_encoding.md R88).
-/

namespace Sys2Proof.Machine

/-- The seven delay counts of 60_exceptions.md R226. -/
def timing : Timing where
  T_POWER      := 50000
  T_INIT_LONG  := 4500
  T_INIT_SHORT := 150
  T_CLEAR      := 2000
  T_E_SETUP    := 1
  T_E_HIGH     := 1
  T_E_SETTLE   := 100

/-- ROWOFF as INIT computes it (41_initialization.md R131 step 1, R132): sums modulo 256. -/
def rowOffsets (c : LcdCodes) (columns : Byte) : Vector Byte 4 :=
  #v[c.ROW_BASE0, c.ROW_BASE1, c.ROW_BASE0 + columns, c.ROW_BASE1 + columns]

/-- The clamped row of SETCURSOR (43_display_commands.md R173, R176): min(row, min(4, NLINES) - 1), `none` when NLINES = 0
(RowUnderflow). -/
def clampRow (nlines row : Byte) : Option (Fin 4) :=
  if h : nlines.toNat = 0 then none
  else some ⟨min row.toNat (min 4 nlines.toNat - 1), by omega⟩

/-- The set-DDRAM-address byte DA (30_encoding.md R93, 43_display_commands.md R177): the sum modulo 256, then the OR. -/
def setDdramByte (c : LcdCodes) (col offset : Byte) : Byte := c.SETDDRAMADDR ||| (col + offset)

/-- The set-CGRAM-address byte CA (30_encoding.md R94): the location masked to 0..7, shifted to its slot. -/
def setCgramByte (c : LcdCodes) (location : Byte) : Byte :=
  c.SETCGRAMADDR ||| ((location &&& 7) <<< c.CGRAM_SLOT_SHIFT)

/-- SL (30_encoding.md R95). -/
def shiftLeftByte (c : LcdCodes) : Byte := c.CURSORSHIFT ||| c.DISPLAY_MOVE

/-- SR (30_encoding.md R95). -/
def shiftRightByte (c : LcdCodes) : Byte := c.CURSORSHIFT ||| c.DISPLAY_MOVE ||| c.MOVE_RIGHT

/-- `v[7:4]` (20_memory.md R57, 30_encoding.md R97). -/
def highNibble (v : Byte) : Nibble := v.extractLsb' 4 4

/-- `v[3:0]` (20_memory.md R57, 30_encoding.md R97). -/
def lowNibble (v : Byte) : Nibble := v.extractLsb' 0 4

end Sys2Proof.Machine
end

