-- ==== Sys2Proof/Machine/PinSpace.lean ====
section
/-!
DEFINITION. The pin-identifier space as a memory: reading and writing the latches of one identifier (20_memory.md R50, R55),
and the effect of an event on them.
-/

namespace Sys2Proof.Machine

/-- What an unlisted identifier reads as: both latches unknown (R55, "both unknown at reset"). -/
def PinLatch.unknown : PinLatch := ⟨none, none⟩

/-- The latches of identifier `a`. -/
def Memory.read : Memory → Nat → PinLatch
  | [], _ => PinLatch.unknown
  | (k, v) :: m, a => if a = k then v else Memory.read m a

/-- A cell in front of a memory, left out when it says what an unlisted identifier reads as. -/
def Memory.cell (a : Nat) (v : PinLatch) (m : Memory) : Memory :=
  if v = PinLatch.unknown then m else (a, v) :: m

/-- The memory with the latches of identifier `a` replaced. -/
def Memory.write : Memory → Nat → PinLatch → Memory
  | [], a, v => Memory.cell a v []
  | (k, u) :: m, a, v =>
    if a < k then Memory.cell a v ((k, u) :: m)
    else if a = k then Memory.cell a v m
    else (k, u) :: Memory.write m a v

/-- Canonical form from identifier `lo` on: identifiers rising and below 256, no cell equal to the unknown latches. -/
def Memory.wfFrom : Nat → Memory → Bool
  | _, [] => true
  | lo, (k, v) :: m => decide (lo ≤ k) && decide (k < 256) && decide (v ≠ PinLatch.unknown) && Memory.wfFrom (k + 1) m

/-- The canonical form of a memory: two equal pin spaces are equal lists. -/
def Memory.wf (m : Memory) : Bool := Memory.wfFrom 0 m

/-- The effect of an event on the latches (R55): Cfg sets one direction, Wr sets one level, Delay changes nothing.
So a Cfg leaves the level latch, as R55 says, and a line released by DISPOSE or made an output by INIT keeps the level last
written, where 93_implementation_defined.md U12 and U11 call it `unknown` to the engine (DESIGN CHOICE between them, log 8). -/
def applyEvent (e : Event) (m : Memory) : Memory :=
  match e with
  | .cfg p d => Memory.write m p.toNat { Memory.read m p.toNat with dir := some d }
  | .wr p l => Memory.write m p.toNat { Memory.read m p.toNat with lvl := some l }
  | .delay _ => m

/-- The latches after a list of events. -/
def applyEvents (es : List Event) (m : Memory) : Memory := es.foldl (fun m e => applyEvent e m) m

/-- The level latch of an identifier. -/
def Memory.level (m : Memory) (p : PinId) : Option Level := (Memory.read m p.toNat).lvl

/-- The direction latch of an identifier. -/
def Memory.dir (m : Memory) (p : PinId) : Option Dir := (Memory.read m p.toNat).dir

end Sys2Proof.Machine
end

