-- ==== Sys2Proof/Machine/Ops.lean ====
section
/-!
DEFINITION. The shared operations: refusing a command (the machine's exception), accepting one, completing one, issuing an
event, and the transfer primitives of 42_transfer_primitives.md.
-/

namespace Sys2Proof.Machine

/-! ## Refusing, accepting and completing a command -/

/-- `raise E` (00_scope.md R12, 60_exceptions.md R212): the machine's exception.
ERR takes the code, BUSY is low again, nothing is emitted, and every other register is as before.
There is no handler and nothing to return from (R213): the next packet is taken as if the refused one had not been sent. -/
def raise (e : ResultCode) (s : State) : State := { s with err := e, busy := false, pending := [] }

/-- The commit of an accepted command (10_state.md R36): its register writes take effect together, BUSY goes to 1 and its
program is fixed.
Only called with BUSY = 0 (R28): a step runs a host operation in no other state. -/
def accept (life : Lifecycle) (program : List Micro) (s : State) : State :=
  { s with life := life, busy := true, pending := program }

/-- The end of a command (10_state.md R28, 41_initialization.md R140 DONE): BUSY falls and ERR is OK. -/
def complete (s : State) : State := { s with busy := false, err := .ok }

/-- One event issued and completed (00_scope.md R11, 20_memory.md R66): appended to the trace, its effect on the latches made. -/
def issue (e : Event) (s : State) : State := { s with trace := s.trace ++ [e], pins := applyEvent e s.pins }

/-- The reset state (70_reset_and_hazards.md R240, R241), with the inputs left to the world outside and the codes to the
instance. -/
def applyReset (s : State) : State := { State.reset with codes := s.codes, rst := s.rst, hostIn := s.hostIn }

/-! ## The phase check -/

/-- A command accepted only in READY (60_exceptions.md R216). -/
def whenReady (f : PinAssignment → DataRegs → State → State) (s : State) : State :=
  match s.life with
  | .ready pa r => f pa r s
  | .configured _ => raise .phaseError s
  | .unconfigured => raise .phaseError s

/-- A command accepted in CONFIGURED and READY (60_exceptions.md R216): the phases in which a Pin Assignment is held. -/
def whenAssigned (f : PinAssignment → State → State) (s : State) : State :=
  match s.life.pins with
  | some pa => f pa s
  | none => raise .phaseError s

/-- A command of READY that writes no register: it only runs a program (43_display_commands.md R170). -/
def runReady (program : PinAssignment → DataRegs → List Micro) (s : State) : State :=
  whenReady (fun pa r s => accept (.ready pa r) (program pa r) s) s

/-! ## The transfer primitives -/

/-- Present(x, w) on a list of data lines (R151): bit i to line i, index 0 first. -/
def present {w : Nat} (ds : List PinId) (x : BitVec w) : List Event :=
  ds.zipIdx.map fun di => .wr di.1 (x.getLsbD di.2)

/-- Pulse (R152, R163): the states P0 to P5. -/
def pulse (pa : PinAssignment) : List Event :=
  [.wr pa.en false, .delay timing.T_E_SETUP, .wr pa.en true, .delay timing.T_E_HIGH, .wr pa.en false,
    .delay timing.T_E_SETTLE]

/-- Write4(x) (R153): one 4-bit transfer on D[0..3].
R153 gives it for PA_N = 4 alone; with 8 lines, where no rule calls it, it takes the same four lines (log 22). -/
def write4 (pa : PinAssignment) (x : Nibble) : List Event := present (pa.data.toList.take 4) x ++ pulse pa

/-- Write8(x) (R154): one 8-bit transfer.
R154 gives it for PA_N = 8 alone; with 4 lines, where nothing calls it, it drives them with the low four bits (log 22). -/
def write8 (pa : PinAssignment) (x : Byte) : List Event := present (pa.data.toList.take 8) x ++ pulse pa

/-- `if PA_RWEN = 1: emit Wr(RW, 0)` (R155). -/
def driveRwLow (pa : PinAssignment) : List Event :=
  match pa.rw with
  | some p => [.wr p false]
  | none => []

/-- Send(v, rs) (R155): RS, RW if present, then one 8-bit transfer or two 4-bit transfers, high nibble first. -/
def send (pa : PinAssignment) (v : Byte) (rs : Level) : List Event :=
  .wr pa.rs rs :: (driveRwLow pa ++
    (if pa.data.is8 then write8 pa v else write4 pa (highNibble v) ++ write4 pa (lowNibble v)))

/-- SendCommand(v) (R156). -/
def sendCommand (pa : PinAssignment) (v : Byte) : List Event := send pa v false

/-- SendCharacter(v) (R157). -/
def sendCharacter (pa : PinAssignment) (v : Byte) : List Event := send pa v true

/-- `for each owned pin: emit Cfg(pin, d)` (40_lifecycle.md R122, 41_initialization.md R134). -/
def directions (pa : PinAssignment) (d : Dir) : List Event := pa.owned.map fun p => .cfg p d

/-! ## Programs -/

/-- The events of one unit of a program under a Pin Assignment; a call made while none is held has none (log 9). -/
def microEvents (pins : Option PinAssignment) : Micro → List Event
  | .emit e => [e]
  | .sendCommand v => (pins.map fun pa => sendCommand pa v).getD []
  | .sendCharacter v => (pins.map fun pa => sendCharacter pa v).getD []
  | .write4 x => (pins.map fun pa => write4 pa x).getD []

/-- The event list of a program (10_state.md R36). -/
def eventsOf (pins : Option PinAssignment) (program : List Micro) : List Event :=
  program.flatMap (microEvents pins)

/-- The events the command in progress has still to issue. -/
def State.remaining (s : State) : List Event := eventsOf s.life.pins s.pending

/-- A call of a transfer primitive: its pseudocode runs in place, before what is left of the caller (00_scope.md R13).
With no Pin Assignment held it is refused like every command that reads the Pin Assignment (10_state.md R31); no run
reaches that (42_transfer_primitives.md R150) (log 9). -/
def callMicro (f : PinAssignment → List Event) (s : State) : State :=
  whenAssigned (fun pa s => { s with busy := true, pending := (f pa).map .emit ++ s.pending }) s

end Sys2Proof.Machine
end

