-- ==== Sys2Proof/Machine/DataCommands.lean ====
section
/-!
DEFINITION. The data commands CREATECHAR and PRINT (45_data_commands.md).
-/

namespace Sys2Proof.Machine

/-- CREATECHAR (R201): set-CGRAM-address, then the eight bitmap bytes as data; InvalidArgument unless there are eight. -/
def execCreateChar (location : Byte) (bitmap : List Byte) (s : State) : Host.Outcome State Fault Refusal :=
  .next (whenReady (fun pa r s =>
    if bitmap.length = 8 then
      accept (.ready pa r) (.sendCommand (setCgramByte s.codes location) :: bitmap.map .sendCharacter) s
    else raise .invalidArgument s) s)

/-- PRINT (R202): each byte as data, in order. -/
def execPrint (text : List Byte) (s : State) : Host.Outcome State Fault Refusal :=
  .next (runReady (fun _ _ => text.map .sendCharacter) s)

end Sys2Proof.Machine
end

