-- ==== Sys2Proof/Machine/Init.lean ====
section
/-!
DEFINITION. The initialization sequence and its finite-state machine (41_initialization.md).
-/

namespace Sys2Proof.Machine

/-- The states of the initialization FSM (R140). -/
inductive InitState where
  | latch
  | dir
  | vcc
  | idleLow
  | prime1
  | prime2
  | prime3
  | prime4
  | func
  | disp
  | clear
  | entry
  | done
  deriving DecidableEq, Repr

/-- The order in which the FSM visits its states (R140, column "next"); DONE is idle. -/
def initNext : InitState → Option InitState
  | .latch => some .dir
  | .dir => some .vcc
  | .vcc => some .idleLow
  | .idleLow => some .prime1
  | .prime1 => some .prime2
  | .prime2 => some .prime3
  | .prime3 => some .prime4
  | .prime4 => some .func
  | .func => some .disp
  | .disp => some .clear
  | .clear => some .entry
  | .entry => some .done
  | .done => none

/-- `emit Delay(n)` as a unit of a program. -/
def wait (n : DelayCount) : Micro := .emit (.delay n)

/-- What each state of the FSM emits (R140, column "events"; R134 to R138), for the data registers that S0 wrote. -/
def initProgramOf (c : LcdCodes) (pa : PinAssignment) (r : DataRegs) : InitState → List Micro
  | .latch => []
  | .dir => (directions pa .output).map .emit
  | .vcc => [wait timing.T_POWER]
  | .idleLow => (Event.wr pa.rs false :: Event.wr pa.en false :: driveRwLow pa).map .emit
  | .prime1 =>
    if pa.data.is8 then [.sendCommand (functionSetByte c r.func), wait timing.T_INIT_LONG]
    else [.write4 0x3, wait timing.T_INIT_LONG]
  | .prime2 =>
    if pa.data.is8 then [.sendCommand (functionSetByte c r.func), wait timing.T_INIT_SHORT]
    else [.write4 0x3, wait timing.T_INIT_LONG]
  | .prime3 =>
    if pa.data.is8 then [.sendCommand (functionSetByte c r.func)]
    else [.write4 0x3, wait timing.T_INIT_SHORT]
  | .prime4 => if pa.data.is8 then [] else [.write4 0x2]
  | .func => [.sendCommand (functionSetByte c r.func)]
  | .disp => [.sendCommand (displayControlByte c r.dctrl)]
  | .clear => [.sendCommand c.CLEARDISPLAY, wait timing.T_CLEAR]
  | .entry => [.sendCommand (entryModeByte c r.emode)]
  | .done => []

/-- The states of the FSM in the order of `initNext`, S0 to DONE. -/
def initStates : List InitState :=
  [.latch, .dir, .vcc, .idleLow, .prime1, .prime2, .prime3, .prime4, .func, .disp, .clear, .entry, .done]

/-- The whole program of INIT (R131). -/
def initProgram (c : LcdCodes) (pa : PinAssignment) (r : DataRegs) : List Micro := initStates.flatMap (initProgramOf c pa r)

/-- The data registers INIT writes (R131 steps 1, 8 and 10): nothing of the old values survives (R138). -/
def initRegs (c : LcdCodes) (pa : PinAssignment) (columns lines dotSize : Byte) : DataRegs where
  func   := functionFlags c pa lines dotSize
  dctrl  := c.DISPLAY_ON
  emode  := c.ENTRY_LEFT
  nlines := lines
  rowoff := rowOffsets c columns

/-- INIT (R131): accepted in CONFIGURED and READY, whatever the operands (R139). -/
def execInit (columns lines dotSize : Byte) (s : State) : Host.Outcome State Fault Refusal :=
  .next (whenAssigned (fun pa s =>
    let r := initRegs s.codes pa columns lines dotSize
    accept (.ready pa r) (initProgram s.codes pa r) s) s)

end Sys2Proof.Machine
end

