-- ==== Sys2Proof/Machine/Display.lean ====
section
/-!
DEFINITION. The display commands CLEAR, HOME, SETCURSOR, SCROLLLEFT and SCROLLRIGHT (43_display_commands.md).
-/

namespace Sys2Proof.Machine

/-- CLEAR (R171). -/
def execClear (s : State) : Host.Outcome State Fault Refusal :=
  .next (runReady (fun _ _ => [.sendCommand s.codes.CLEARDISPLAY, wait timing.T_CLEAR]) s)

/-- HOME (R172). -/
def execHome (s : State) : Host.Outcome State Fault Refusal :=
  .next (runReady (fun _ _ => [.sendCommand s.codes.RETURNHOME, wait timing.T_CLEAR]) s)

/-- SETCURSOR (R173): clamp the row, add the column modulo 256, send set-DDRAM-address; RowUnderflow when NLINES = 0. -/
def execSetCursor (col row : Byte) (s : State) : Host.Outcome State Fault Refusal :=
  .next (whenReady (fun pa r s =>
    match clampRow r.nlines row with
    | some k => accept (.ready pa r) [.sendCommand (setDdramByte s.codes col r.rowoff[k])] s
    | none => raise .rowUnderflow s) s)

/-- SCROLLLEFT (R174). -/
def execScrollLeft (s : State) : Host.Outcome State Fault Refusal :=
  .next (runReady (fun _ _ => [.sendCommand (shiftLeftByte s.codes)]) s)

/-- SCROLLRIGHT (R175). -/
def execScrollRight (s : State) : Host.Outcome State Fault Refusal :=
  .next (runReady (fun _ _ => [.sendCommand (shiftRightByte s.codes)]) s)

end Sys2Proof.Machine
end

