-- ==== Sys2Proof/Machine/FlagCommands.lean ====
section
/-!
DEFINITION. The ten flag commands (44_flag_commands.md): one method per group changes the register and resends it in full
(R180).
-/

namespace Sys2Proof.Machine

/-- The display-control group (R180): change DCTRL and send the whole register. -/
def updateDctrl (f : Byte → Byte) (s : State) : State :=
  whenReady (fun pa r s =>
    accept (.ready pa { r with dctrl := f r.dctrl }) [.sendCommand (displayControlByte s.codes (f r.dctrl))] s) s

/-- The entry-mode group (R180): change EMODE and send the whole register. -/
def updateEmode (f : Byte → Byte) (s : State) : State :=
  whenReady (fun pa r s =>
    accept (.ready pa { r with emode := f r.emode }) [.sendCommand (entryModeByte s.codes (f r.emode))] s) s

/-- DISPLAY (R181): D <- 1. -/
def execDisplay (s : State) : Host.Outcome State Fault Refusal :=
  .next (updateDctrl (setFlag · s.codes.DISPLAY_ON) s)

/-- NODISPLAY (R182): D <- 0. -/
def execNoDisplay (s : State) : Host.Outcome State Fault Refusal :=
  .next (updateDctrl (clearFlag · s.codes.DISPLAY_ON) s)

/-- CURSOR (R183): C <- 1. -/
def execCursor (s : State) : Host.Outcome State Fault Refusal :=
  .next (updateDctrl (setFlag · s.codes.CURSOR_ON) s)

/-- NOCURSOR (R184): C <- 0. -/
def execNoCursor (s : State) : Host.Outcome State Fault Refusal :=
  .next (updateDctrl (clearFlag · s.codes.CURSOR_ON) s)

/-- BLINK (R185): B <- 1. -/
def execBlink (s : State) : Host.Outcome State Fault Refusal :=
  .next (updateDctrl (setFlag · s.codes.BLINK_ON) s)

/-- NOBLINK (R186): B <- 0. -/
def execNoBlink (s : State) : Host.Outcome State Fault Refusal :=
  .next (updateDctrl (clearFlag · s.codes.BLINK_ON) s)

/-- LEFTTORIGHT (R187): ID <- 1. -/
def execLeftToRight (s : State) : Host.Outcome State Fault Refusal :=
  .next (updateEmode (setFlag · s.codes.ENTRY_LEFT) s)

/-- RIGHTTOLEFT (R188): ID <- 0. -/
def execRightToLeft (s : State) : Host.Outcome State Fault Refusal :=
  .next (updateEmode (clearFlag · s.codes.ENTRY_LEFT) s)

/-- AUTOSCROLL (R189): S <- 1. -/
def execAutoscroll (s : State) : Host.Outcome State Fault Refusal :=
  .next (updateEmode (setFlag · s.codes.ENTRY_SHIFT) s)

/-- NOAUTOSCROLL (R190): S <- 0. -/
def execNoAutoscroll (s : State) : Host.Outcome State Fault Refusal :=
  .next (updateEmode (clearFlag · s.codes.ENTRY_SHIFT) s)

end Sys2Proof.Machine
end

