-- ==== Sys2Proof/Machine/LcdCommands.lean ====
section
/-!
DEFINITION. The LCD command bytes (30_encoding.md R89 to R95) as the engine runs them: SendCommand of the byte
(42_transfer_primitives.md R156), in place in the command that calls it (log 10).
They write no register (R150).
-/

namespace Sys2Proof.Machine

/-- SendCommand of an LCD command's byte, as this engine's codes assemble it. -/
def sendLcd (i : Instr) (s : State) : State := callMicro (fun pa => sendCommand pa (lcdByte s.codes i)) s

/-- LCD.CLEARDISPLAY (R89). -/
def execLcdClearDisplay (s : State) : Host.Outcome State Fault Refusal := .next (sendLcd .lcdClearDisplay s)

/-- LCD.RETURNHOME (R89). -/
def execLcdReturnHome (s : State) : Host.Outcome State Fault Refusal := .next (sendLcd .lcdReturnHome s)

/-- LCD.ENTRYMODESET (R92). -/
def execLcdEntryModeSet (left shift : Bool) (s : State) : Host.Outcome State Fault Refusal :=
  .next (sendLcd (.lcdEntryModeSet left shift) s)

/-- LCD.DISPLAYCONTROL (R91). -/
def execLcdDisplayControl (d c b : Bool) (s : State) : Host.Outcome State Fault Refusal :=
  .next (sendLcd (.lcdDisplayControl d c b) s)

/-- LCD.CURSORSHIFT (R95). -/
def execLcdCursorShift (sc rl : Bool) (s : State) : Host.Outcome State Fault Refusal :=
  .next (sendLcd (.lcdCursorShift sc rl) s)

/-- LCD.FUNCTIONSET (R90). -/
def execLcdFunctionSet (dl n f : Bool) (s : State) : Host.Outcome State Fault Refusal :=
  .next (sendLcd (.lcdFunctionSet dl n f) s)

/-- LCD.SETCGRAMADDR (R94). -/
def execLcdSetCgramAddr (addr : BitVec 6) (s : State) : Host.Outcome State Fault Refusal :=
  .next (sendLcd (.lcdSetCgramAddr addr) s)

/-- LCD.SETDDRAMADDR (R93). -/
def execLcdSetDdramAddr (addr : BitVec 7) (s : State) : Host.Outcome State Fault Refusal :=
  .next (sendLcd (.lcdSetDdramAddr addr) s)

end Sys2Proof.Machine
end

