-- ==== Sys2Proof/Machine/Lifecycle.lean ====
section
/-!
DEFINITION. The lifecycle operations CONSTRUCT and DISPOSE (40_lifecycle.md).
-/

namespace Sys2Proof.Machine

/-- CONSTRUCT (R121): in UNCONFIGURED, with 4 or 8 data pins, load the Pin Assignment; emit nothing. -/
def execConstruct (rs : PinId) (rw : Option PinId) (en : PinId) (d : List PinId) (s : State) :
    Host.Outcome State Fault Refusal :=
  match s.life with
  | .unconfigured =>
    match DataLines.ofList d with
    | some data => .next (accept (.configured ⟨rs, rw, en, data⟩) [] s)
    | none => .next (raise .configError s)
  | .configured _ => .next (raise .phaseError s)
  | .ready _ _ => .next (raise .phaseError s)

/-- DISPOSE (R122): make every owned pin an input and empty every register. -/
def execDispose (s : State) : Host.Outcome State Fault Refusal :=
  .next (whenAssigned (fun pa s => accept .unconfigured ((directions pa .input).map .emit) s) s)

end Sys2Proof.Machine
end

