-- ==== Sys2Proof/Machine/Dispatch.lean ====
section
/-!
DEFINITION. The meaning of every instruction, one arm per constructor.
-/

namespace Sys2Proof.Machine

/-- An instruction run in a state. -/
def exec (i : Instr) (s : State) : Host.Outcome State Fault Refusal :=
  match i with
  -- 40_lifecycle.md, 41_initialization.md
  | .construct rs rw en d => Sys2Proof.Machine.execConstruct rs rw en d s
  | .init columns lines dotSize => Sys2Proof.Machine.execInit columns lines dotSize s
  -- 43_display_commands.md
  | .clear => Sys2Proof.Machine.execClear s
  | .home => Sys2Proof.Machine.execHome s
  | .setCursor col row => Sys2Proof.Machine.execSetCursor col row s
  -- 44_flag_commands.md
  | .display => Sys2Proof.Machine.execDisplay s
  | .noDisplay => Sys2Proof.Machine.execNoDisplay s
  | .cursor => Sys2Proof.Machine.execCursor s
  | .noCursor => Sys2Proof.Machine.execNoCursor s
  | .blink => Sys2Proof.Machine.execBlink s
  | .noBlink => Sys2Proof.Machine.execNoBlink s
  | .scrollLeft => Sys2Proof.Machine.execScrollLeft s
  | .scrollRight => Sys2Proof.Machine.execScrollRight s
  | .leftToRight => Sys2Proof.Machine.execLeftToRight s
  | .rightToLeft => Sys2Proof.Machine.execRightToLeft s
  | .autoscroll => Sys2Proof.Machine.execAutoscroll s
  | .noAutoscroll => Sys2Proof.Machine.execNoAutoscroll s
  -- 45_data_commands.md
  | .createChar location bitmap => Sys2Proof.Machine.execCreateChar location bitmap s
  | .print text => Sys2Proof.Machine.execPrint text s
  | .dispose => Sys2Proof.Machine.execDispose s
  -- 30_encoding.md R89, 42_transfer_primitives.md R156
  | .lcdClearDisplay => Sys2Proof.Machine.execLcdClearDisplay s
  | .lcdReturnHome => Sys2Proof.Machine.execLcdReturnHome s
  | .lcdEntryModeSet left shift => Sys2Proof.Machine.execLcdEntryModeSet left shift s
  | .lcdDisplayControl d c b => Sys2Proof.Machine.execLcdDisplayControl d c b s
  | .lcdCursorShift sc rl => Sys2Proof.Machine.execLcdCursorShift sc rl s
  | .lcdFunctionSet dl n f => Sys2Proof.Machine.execLcdFunctionSet dl n f s
  | .lcdSetCgramAddr addr => Sys2Proof.Machine.execLcdSetCgramAddr addr s
  | .lcdSetDdramAddr addr => Sys2Proof.Machine.execLcdSetDdramAddr addr s

end Sys2Proof.Machine
end

