-- ==== Sys2Proof/Machine/HostPort.lean ====
section
/-!
DEFINITION. The host port (20_memory.md R53, 30_encoding.md R80, R85): a packet as a run of bytes ended by `cmd_last`.
-/

namespace Sys2Proof.Machine

/-- The bytes of a packet on the port: `cmd_last` on the last one only. -/
def beatsOf (b : Byte) : List Byte → List Beat
  | [] => [⟨b, true⟩]
  | c :: cs => ⟨b, false⟩ :: beatsOf c cs

/-- A packet as the host delivers it (R53). -/
def packetBeats (p : Packet) : List Beat := beatsOf p.op p.args

/-- The next whole packet of the bytes the host delivers, and the bytes after it; `none` while no `cmd_last` has come. -/
def takePacket : List Beat → Option (Packet × List Beat)
  | [] => none
  | b :: bs =>
    if b.last then some (⟨b.data, []⟩, bs)
    else (takePacket bs).map fun pr => (⟨b.data, pr.1.op :: pr.1.args⟩, pr.2)

end Sys2Proof.Machine
end

