-- ==== Sys2Proof/Machine/Sequencer.lean ====
section
/-!
DEFINITION. The sequencer: taking the next packet while idle, and running the next unit of a program while busy
(10_state.md R27, R36; 20_memory.md R65, R66).
-/

namespace Sys2Proof.Machine

/-- The result code of a packet that decodes to no instruction (30_encoding.md R83, 60_exceptions.md R211). -/
def errorCode : DecodeError → ResultCode
  | .emptyPacket => .formatError
  | .illegalOpcode => .illegalOpcode
  | .formatError => .formatError

/-- A packet executed (30_encoding.md R83): decoded, then refused or run. -/
def runPacket (p : Packet) (s : State) : Host.Outcome State Fault Refusal :=
  match decodePacket p with
  | .ok i => exec i s
  | .error e => .next (raise (errorCode e) s)

/-- A step with BUSY = 0: the next packet is taken; with no whole packet on the port the engine idles (10_state.md R32). -/
def acceptStep (s : State) : Host.Outcome State Fault Refusal :=
  match takePacket s.hostIn with
  | some (p, rest) => runPacket p { s with hostIn := rest }
  | none => .next s

/-- A step with BUSY = 1: the next unit of the program.
An event is issued (20_memory.md R65, R66); a call runs in place (00_scope.md R13), SendCommand as an LCD instruction
that has the byte under this engine's codes, which sends it as it stands (log 10); the end of the program ends the command. -/
def busyStep (s : State) : Host.Outcome State Fault Refusal :=
  match s.pending with
  | [] => .next (complete s)
  | .emit e :: rest => .next (issue e { s with pending := rest })
  | .sendCommand v :: rest =>
    match decodeLcdWith s.codes v with
    | some i => exec i { s with pending := rest }
    | none => .next (callMicro (fun pa => sendCommand pa v) { s with pending := rest })
  | .sendCharacter v :: rest => .next (callMicro (fun pa => sendCharacter pa v) { s with pending := rest })
  | .write4 x :: rest => .next (callMicro (fun pa => write4 pa x) { s with pending := rest })

end Sys2Proof.Machine
end

