-- ==== Sys2Proof/Machine/Step.lean ====
section
/-!
DEFINITION. One step of the machine, several steps, and how the host of this model lays an instruction where the next step
fetches it.
-/

namespace Sys2Proof.Machine

/-- One step: the reset state while the reset line is high (70_reset_and_hazards.md R240), else the next unit of the command
in progress (BUSY = 1), else the next packet (10_state.md R28). -/
def step (s : State) : Host.Outcome State Fault Refusal :=
  if s.rst then .next (applyReset s)
  else if s.busy then busyStep s
  else acceptStep s

/-- `k` steps. -/
def runSteps : Nat → State → Host.Outcome State Fault Refusal
  | 0, s => .next s
  | k + 1, s =>
    match step s with
    | .next t => runSteps k t
    | .fault f => .fault f
    | .refused r => .refused r

/-- The state with a table word where the next step fetches its instruction: a packet at the front of the host port of an
idle engine, or the byte this engine's codes give an LCD command at the front of the program of a busy one (log 4, 10, 11). -/
def State.withFetchWord (s : State) (nbits w : Nat) : State :=
  match tableWordLcd nbits w with
  | some i => { s with rst := false, busy := true, pending := .sendCommand (lcdByte s.codes i) :: s.pending }
  | none =>
    match tableBytes nbits w with
    | op :: args =>
      { s with rst := false, busy := false, pending := [], hostIn := packetBeats ⟨op, args⟩ ++ s.hostIn }
    | [] => s

end Sys2Proof.Machine
end

