-- ==== Sys2Proof/Laws/PerInstr.lean ====
section
/-!
SUPPORT. Per-instruction laws: every instruction, with every operand, is read back from its own encoding in its own space.
-/

namespace Sys2Proof.Laws.RoundTrip

/-- Decoding the encoding of `i` in the space of `i` gives `i`. -/
def Statement (i : Instr) : Prop := decodeIn i.space (encode i) = some i

theorem construct (rs : PinId) (rw : Option PinId) (en : PinId) (d : List PinId) : Statement (.construct rs rw en d) := by
  cases rw <;> rfl

theorem init (columns lines dotSize : Byte) : Statement (.init columns lines dotSize) := rfl

theorem clear : Statement .clear := rfl

theorem home : Statement .home := rfl

theorem setCursor (col row : Byte) : Statement (.setCursor col row) := rfl

theorem display : Statement .display := rfl

theorem noDisplay : Statement .noDisplay := rfl

theorem cursor : Statement .cursor := rfl

theorem noCursor : Statement .noCursor := rfl

theorem blink : Statement .blink := rfl

theorem noBlink : Statement .noBlink := rfl

theorem scrollLeft : Statement .scrollLeft := rfl

theorem scrollRight : Statement .scrollRight := rfl

theorem leftToRight : Statement .leftToRight := rfl

theorem rightToLeft : Statement .rightToLeft := rfl

theorem autoscroll : Statement .autoscroll := rfl

theorem noAutoscroll : Statement .noAutoscroll := rfl

theorem createChar (location : Byte) (bitmap : List Byte) : Statement (.createChar location bitmap) := rfl

theorem print (text : List Byte) : Statement (.print text) := rfl

theorem dispose : Statement .dispose := rfl

theorem lcdClearDisplay : Statement .lcdClearDisplay := by unfold Statement; decide

theorem lcdReturnHome : Statement .lcdReturnHome := by unfold Statement; decide

theorem lcdEntryModeSet (left shift : Bool) : Statement (.lcdEntryModeSet left shift) := by
  unfold Statement; revert left shift; decide

theorem lcdDisplayControl (d c b : Bool) : Statement (.lcdDisplayControl d c b) := by
  unfold Statement; revert d c b; decide

theorem lcdCursorShift (sc rl : Bool) : Statement (.lcdCursorShift sc rl) := by
  unfold Statement; revert sc rl; decide

theorem lcdFunctionSet (dl n f : Bool) : Statement (.lcdFunctionSet dl n f) := by
  unfold Statement; revert dl n f; decide

theorem lcdSetCgramAddr (addr : BitVec 6) : Statement (.lcdSetCgramAddr addr) := by
  unfold Statement; revert addr; decide

theorem lcdSetDdramAddr (addr : BitVec 7) : Statement (.lcdSetDdramAddr addr) := by
  unfold Statement; revert addr; decide

end Sys2Proof.Laws.RoundTrip
end

