-- ==== Sys2Proof/Machine/Observe.lean ====
section
/-!
DEFINITION. What a claim observes of a list of events: its latched transfers (20_memory.md R60), the writes to one pin, the
sum of its delay counts.
-/

namespace Sys2Proof.Machine

/-- A latched transfer (R60): the level of RS and the bit on each data line, line 0 first; `none` is an unknown level. -/
structure Transfer where
  rs   : Option Level
  bits : List (Option Level)
  deriving DecidableEq, Repr

/-- The transfer that carries a w-bit value with RS at a level. -/
def Transfer.ofValue {w : Nat} (rs : Level) (x : BitVec w) : Transfer :=
  ⟨some rs, (List.range w).map fun i => some (x.getLsbD i)⟩

/-- The transfer the controller is taken to sample with the latches `m`. -/
def sample (pa : PinAssignment) (m : Memory) : Transfer :=
  ⟨Memory.level m pa.rs, pa.data.toList.map (Memory.level m)⟩

/-- Whether an event takes enable from high to low (R60). -/
def latches (pa : PinAssignment) (m : Memory) (e : Event) : Bool :=
  e == .wr pa.en false && Memory.level m pa.en == some true

/-- The latched transfers of a list of events that starts with the latches `m` (R60).
R60 defines them only under DistinctPins; where two lines share an identifier this total function still gives the list read
off the shared latch, which is the model's choice (DESIGN CHOICE, log 16: 93_implementation_defined.md U9 calls the levels
`any value`). -/
def latched (pa : PinAssignment) : Memory → List Event → List Transfer
  | _, [] => []
  | m, e :: es =>
    if latches pa m e then sample pa m :: latched pa (applyEvent e m) es
    else latched pa (applyEvent e m) es

/-- The latched transfers of one byte sent at an RS level (42_transfer_primitives.md R159): one, or two nibbles, high first. -/
def byteTransfers (pa : PinAssignment) (v : Byte) (rs : Level) : List Transfer :=
  if pa.data.is8 then [Transfer.ofValue rs v]
  else [Transfer.ofValue rs (highNibble v), Transfer.ofValue rs (lowNibble v)]

/-- The levels written to a pin, in order. -/
def writesTo (p : PinId) : List Event → List Level
  | [] => []
  | .wr q l :: es => if q = p then l :: writesTo p es else writesTo p es
  | .cfg _ _ :: es => writesTo p es
  | .delay _ :: es => writesTo p es

/-- The sum of the delay counts, in microseconds (70_reset_and_hazards.md R255). -/
def delaySum : List Event → Nat
  | [] => 0
  | .delay n :: es => n.toNat + delaySum es
  | .wr _ _ :: es => delaySum es
  | .cfg _ _ :: es => delaySum es

end Sys2Proof.Machine
end

