-- ==== Sys2Proof/Machine/Ports.lean ====
section
/-!
DEFINITION. The signals of the engine's ports, as views of the state (20_memory.md R51 to R53, 30_encoding.md R98,
70_reset_and_hazards.md R240).
-/

namespace Sys2Proof.Machine

/-- A request on the pin port or on the delay port. -/
inductive Request where
  /-- `pin_op`, `pin_id`, `pin_val` (20_memory.md R51). -/
  | pin (op : BitVec 2) (id : BitVec 8) (val : BitVec 1)
  /-- `dly_count` (20_memory.md R52). -/
  | delay (count : BitVec 32)
  deriving DecidableEq, Repr

/-- The request an event is (R51, R52, R98): for Cfg `pin_val` 1 is out, for Wr it is high. -/
def Event.request : Event → Request
  | .cfg p .output => .pin 0 p 1
  | .cfg p .input => .pin 0 p 0
  | .wr p l => .pin 1 p (BitVec.ofBool l)
  | .delay n => .delay n

/-- The event a request asks for; `none` for `pin_op` 2 (Rd) and 3 (reserved), which the engine never drives (R51). -/
def Request.event : Request → Option Event
  | .pin op p val =>
    if op = 0 then some (.cfg p (if val = 1 then .output else .input))
    else if op = 1 then some (.wr p (val == 1))
    else none
  | .delay n => some (.delay n)

/-- The event on a port in this state: the head of the program while BUSY = 1. -/
def State.currentEvent (s : State) : Option Event :=
  match s.busy, s.pending with
  | true, .emit e :: _ => some e
  | _, _ => none

/-- `pin_valid` (R51). -/
def State.pinValid (s : State) : Bool :=
  match s.currentEvent with
  | some (.cfg _ _) => true
  | some (.wr _ _) => true
  | _ => false

/-- `dly_valid` (R52). -/
def State.dlyValid (s : State) : Bool :=
  match s.currentEvent with
  | some (.delay _) => true
  | _ => false

/-- `cmd_ready` (R53): low while BUSY = 1.
While the reset line is still high it is 1 here, although no byte is taken then: 70_reset_and_hazards.md R240 gives it only
"when it is released" (DESIGN CHOICE, log 7). -/
def State.cmdReady (s : State) : Bool := !s.busy

/-- `err` (R53). -/
def State.errOut (s : State) : BitVec 3 := s.err.toBits

end Sys2Proof.Machine
end

