-- ==== Sys2Proof/WellFormed.lean ====
section
/-!
DEFINITION. Well-formed instructions: what the opcode table asks of an instruction beyond the widths of its operands.
An ill-formed host operation still has a packet and a meaning (it is refused with an argument error); an ill-formed LCD
command byte is one this engine never sends.
-/

namespace Sys2Proof

/-- The table's "length" column for CONSTRUCT and CREATECHAR (40_lifecycle.md R121, 45_data_commands.md R201), and, for the
LCD command bytes, what 30_encoding.md says the engine's own bytes look like: SC is always 1 (R89), N and F are never both
set (R90), and a CGRAM address is the start of a slot (R94). -/
def Instr.wf : Instr → Bool
  | .construct _ _ _ d => d.length == 4 || d.length == 8
  | .createChar _ bitmap => bitmap.length == 8
  | .lcdCursorShift sc _ => sc
  | .lcdFunctionSet _ n f => !(n && f)
  | .lcdSetCgramAddr addr => addr.extractLsb' 0 3 == 0
  | .init _ _ _ | .clear | .home | .setCursor _ _ | .display | .noDisplay | .cursor | .noCursor | .blink | .noBlink
  | .scrollLeft | .scrollRight | .leftToRight | .rightToLeft | .autoscroll | .noAutoscroll | .print _ | .dispose
  | .lcdClearDisplay | .lcdReturnHome | .lcdEntryModeSet _ _ | .lcdDisplayControl _ _ _ | .lcdSetDdramAddr _ => true

end Sys2Proof
end

