-- ==== Sys2Proof/Safety.lean ====
section
/-!
DEFINITION. The terms claims use: the spec's tables of checks, the invariants of the machine, the mirror of the flag
registers, and the number of steps a command takes.
-/

namespace Sys2Proof

open Machine

/-! ## The checks of a packet, as the spec tabulates them -/

/-- The opcodes of the opcode map (30_encoding.md R82, R84). -/
def opcodeAssigned (op : Byte) : Bool := 0x01 ≤ op.toNat && op.toNat ≤ 0x14

/-- The length check by format (30_encoding.md R83 (2)): K needs L ≥ 5 and rwen 0 or 1, I needs L = 4, S needs L = 3, G needs
L ≥ 2, P is always right, Z needs L = 1. -/
def formatFits (p : Packet) : Bool :=
  let operands := p.args.length
  match p.op.toNat with
  | 0x01 => 4 ≤ operands && (p.args[1]? == some 0x00 || p.args[1]? == some 0x01)
  | 0x02 => operands == 3
  | 0x05 => operands == 2
  | 0x12 => 1 ≤ operands
  | 0x13 => true
  | _ => operands == 0

/-- The phases a host operation is accepted in (60_exceptions.md R216), and those in which a micro-operation is called
(42_transfer_primitives.md R150). -/
def acceptedIn : Instr → Phase → Bool
  | .construct _ _ _ _, ph => ph == .unconfigured
  | .init _ _ _, ph | .dispose, ph => ph == .configured || ph == .ready
  | .clear, ph | .home, ph | .setCursor _ _, ph | .scrollLeft, ph | .scrollRight, ph => ph == .ready
  | .display, ph | .noDisplay, ph | .cursor, ph | .noCursor, ph | .blink, ph | .noBlink, ph => ph == .ready
  | .leftToRight, ph | .rightToLeft, ph | .autoscroll, ph | .noAutoscroll, ph => ph == .ready
  | .createChar _ _, ph | .print _, ph => ph == .ready
  | .lcdClearDisplay, ph | .lcdReturnHome, ph | .lcdEntryModeSet _ _, ph | .lcdDisplayControl _ _ _, ph
  | .lcdCursorShift _ _, ph | .lcdFunctionSet _ _ _, ph | .lcdSetCgramAddr _, ph | .lcdSetDdramAddr _, ph =>
    ph == .configured || ph == .ready

/-- The argument error of an operation, made after the phase check (30_encoding.md R83 (4), 60_exceptions.md R211). -/
def argumentError (i : Instr) (s : State) : Option ResultCode :=
  match i with
  | .construct _ _ _ d => if d.length = 4 ∨ d.length = 8 then none else some .configError
  | .createChar _ bitmap => if bitmap.length = 8 then none else some .invalidArgument
  | .setCursor _ _ => if s.nlines = some 0 then some .rowUnderflow else none
  | _ => none

/-! ## Idle states, calls and step counts -/

/-- The engine is idle: BUSY = 0 and nothing of a command is left (10_state.md R28, 20_memory.md R66). -/
def Idle (s : State) : Prop := s.busy = false ∧ s.pending = []

/-- Whether a unit of a program is a call of a transfer primitive. -/
def isCall : Micro → Bool
  | .emit _ => false
  | .sendCommand _ => true
  | .sendCharacter _ => true
  | .write4 _ => true

/-- The steps the sequencer takes for one unit: one for an event; for a call, one to enter it and one for each event. -/
def stepsOf (pins : Option PinAssignment) (m : Micro) : Nat :=
  if isCall m then (microEvents pins m).length + 1 else 1

/-- The steps from a busy state to the end of its command: those of the units left, and the one in which BUSY falls. -/
def stepsToIdle (s : State) : Nat := (s.pending.map (stepsOf s.life.pins)).sum + 1

/-! ## Invariants -/

/-- The owned identifiers are pairwise different: the launch premise DistinctPins (70_reset_and_hazards.md R252). -/
def DistinctPins (pa : PinAssignment) : Prop := pa.owned.Nodup

/-- The engine has the default codes: the model's form of the launch premise CodesAreDatasheet (70_reset_and_hazards.md R252),
for claims that name a bit position or recognise a command byte (92_eei_decisions.md D30). -/
def DefaultCodes (s : State) : Prop := s.codes = lcdCodes

/-- What the data registers always satisfy, in the names of the codes (10_state.md R20 to R23, 41_initialization.md R132, R133). -/
structure RegsOk (c : LcdCodes) (pa : PinAssignment) (r : DataRegs) : Prop where
  /-- FUNC is what INIT computes for the bus width, the line count held and some dot size (R20, R133). -/
  func_flags   : ∃ dotSize, r.func = functionFlags c pa r.nlines dotSize
  /-- DCTRL has no bit outside its three flags (R21). -/
  dctrl_flags  : r.dctrl &&& ~~~(c.DISPLAY_ON ||| c.CURSOR_ON ||| c.BLINK_ON) = 0
  /-- EMODE has no bit outside its two flags (R22). -/
  emode_flags  : r.emode &&& ~~~(c.ENTRY_LEFT ||| c.ENTRY_SHIFT) = 0
  /-- ROWOFF is the table of some column count (R132). -/
  rowoff_table : ∃ columns, r.rowoff = rowOffsets c columns

/-- What the flag registers always satisfy under the default codes, bit by bit (10_state.md R20 to R22, 41_initialization.md
R133, 44_flag_commands.md R191 (d)). -/
structure FieldsOk (pa : PinAssignment) (r : DataRegs) : Prop where
  /-- FUNC bits 7:5 and 1:0 are 0 (R20). -/
  func_unused  : r.func &&& 0xE3 = 0
  /-- DL = (PA_N = 8) (R20). -/
  func_dl      : r.func.getLsbD 4 = pa.data.is8
  /-- N = (lines > 1) (R133). -/
  func_n       : r.func.getLsbD 3 = decide (1 < r.nlines.toNat)
  /-- N and F are never both 1 (R133). -/
  func_nf      : (r.func.getLsbD 3 && r.func.getLsbD 2) = false
  /-- DCTRL bits 7:3 are 0 (R21). -/
  dctrl_unused : r.dctrl &&& 0xF8 = 0
  /-- EMODE bits 7:2 are 0 (R22). -/
  emode_unused : r.emode &&& 0xFC = 0

/-- A command byte the rules assemble, in the names of the codes (30_encoding.md R90 to R95). -/
inductive AssembledByte (c : LcdCodes) : Byte → Prop where
  | clearDisplay : AssembledByte c c.CLEARDISPLAY
  | returnHome : AssembledByte c c.RETURNHOME
  | functionSet (pa : PinAssignment) (lines dotSize : Byte) :
    AssembledByte c (c.FUNCTIONSET ||| functionFlags c pa lines dotSize)
  | displayControl (dctrl : Byte) (h : dctrl &&& ~~~(c.DISPLAY_ON ||| c.CURSOR_ON ||| c.BLINK_ON) = 0) :
    AssembledByte c (c.DISPLAYCONTROL ||| dctrl)
  | entryMode (emode : Byte) (h : emode &&& ~~~(c.ENTRY_LEFT ||| c.ENTRY_SHIFT) = 0) :
    AssembledByte c (c.ENTRYMODESET ||| emode)
  | setDdramAddr (col offset : Byte) : AssembledByte c (c.SETDDRAMADDR ||| (col + offset))
  | setCgramAddr (location : Byte) : AssembledByte c (c.SETCGRAMADDR ||| ((location &&& 7) <<< c.CGRAM_SLOT_SHIFT))
  | shiftLeft : AssembledByte c (c.CURSORSHIFT ||| c.DISPLAY_MOVE)
  | shiftRight : AssembledByte c (c.CURSORSHIFT ||| c.DISPLAY_MOVE ||| c.MOVE_RIGHT)

/-- An LCD command byte this engine may send under the default codes: the byte of a well-formed LCD instruction
(30_encoding.md R89, R90, R94). -/
def EngineCommand (v : Byte) : Prop := ∃ i : Instr, i.space = .lcdCommand ∧ i.wf = true ∧ encode i = [v]

/-- The invariant of the machine. -/
structure Invariant (s : State) : Prop where
  /-- The pin space is in canonical form. -/
  pins_wf  : Memory.wf s.pins = true
  /-- The data registers, when they hold values, are legal. -/
  regs_ok  : ∀ pa r, s.life = .ready pa r → RegsOk s.codes pa r
  /-- Under the default codes every used bit of them has its place. -/
  fields   : DefaultCodes s → ∀ pa r, s.life = .ready pa r → FieldsOk pa r
  /-- With BUSY = 0 nothing of a command is left (20_memory.md R66). -/
  idle     : s.busy = false → s.pending = []
  /-- A transfer primitive is called only while a Pin Assignment is held (42_transfer_primitives.md R150). -/
  assigned : s.life.pins = none → ∀ m ∈ s.pending, isCall m = false
  /-- Every command byte on its way is one the rules assemble (30_encoding.md R90 to R95). -/
  commands : ∀ v, .sendCommand v ∈ s.pending → AssembledByte s.codes v
  /-- Under the default codes it has one of the layouts (30_encoding.md R89, last paragraph). -/
  layouts  : DefaultCodes s → ∀ v, .sendCommand v ∈ s.pending → EngineCommand v
  /-- Result code 3 is never set (60_exceptions.md R218). -/
  no_range : s.err ≠ .rangeError

/-! ## The mirror of the flag registers (10_state.md R30) -/

/-- A function-set byte: 001x xxxx (30_encoding.md R89). -/
def isFunctionSet (v : Byte) : Bool := v &&& 0xE0 == 0x20

/-- A display-control byte: 0000 1xxx (R89). -/
def isDisplayControl (v : Byte) : Bool := v &&& 0xF8 == 0x08

/-- An entry-mode-set byte: 0000 01xx (R89). -/
def isEntryModeSet (v : Byte) : Bool := v &&& 0xFC == 0x04

/-- A unit of a program that sends no command byte of a kind: a delay, a data byte, or a command byte of another kind. -/
def sendsNone (kind : Byte → Bool) : Micro → Bool
  | .emit (.delay _) => true
  | .emit (.cfg _ _) => false
  | .emit (.wr _ _) => false
  | .sendCommand v => !kind v
  | .sendCharacter _ => true
  | .write4 _ => false

/-- A unit of a program that sends one byte or waits. -/
def sendsOrWaits : Micro → Bool
  | .emit (.delay _) => true
  | .emit (.cfg _ _) => false
  | .emit (.wr _ _) => false
  | .sendCommand _ => true
  | .sendCharacter _ => true
  | .write4 _ => false

/-- The last command byte of a kind in a list of events is `v`: the events end with a SendCommand of `v` and then only
delays, data bytes and command bytes of other kinds. -/
def LastCommandIs (pa : PinAssignment) (kind : Byte → Bool) (v : Byte) (es : List Event) : Prop :=
  kind v = true ∧ ∃ before after, es = before ++ sendCommand pa v ++ eventsOf (some pa) after ∧
    ∀ m ∈ after, sendsNone kind m = true

/-- The mirror invariant (R30), over the trace and what the command in progress has still to issue: in READY the last
function-set, display-control and entry-mode bytes are those of FUNC, DCTRL and EMODE.
Which kind a byte is can be told from the byte only where the codes keep the kinds apart; the premise is the default codes. -/
def Mirror (s : State) : Prop :=
  DefaultCodes s → ∀ pa r, s.life = .ready pa r →
    LastCommandIs pa isFunctionSet (s.codes.FUNCTIONSET ||| r.func) (s.trace ++ s.remaining) ∧
    LastCommandIs pa isDisplayControl (s.codes.DISPLAYCONTROL ||| r.dctrl) (s.trace ++ s.remaining) ∧
    LastCommandIs pa isEntryModeSet (s.codes.ENTRYMODESET ||| r.emode) (s.trace ++ s.remaining)

/-- The lines at rest (42_transfer_primitives.md R160 (a), (b)): in READY, once the command in progress has issued its events,
enable is low, and so is read/write if present. -/
def LinesAtRest (s : State) : Prop :=
  ∀ pa r, s.life = .ready pa r → DistinctPins pa →
    Memory.level (applyEvents s.remaining s.pins) pa.en = some false ∧
    ∀ p, pa.rw = some p → Memory.level (applyEvents s.remaining s.pins) p = some false

end Sys2Proof
end

