-- ==== Sys2Proof/Certificates/Slice0/Obligations.lean ====
section
/-!
DEFINITION. The statements for the provers.
What an instruction does is stated for every LcdCodes record (30_encoding.md R88), in the names of the state's own `codes`; a
statement about bit positions or fixed bytes is about the default record and says so.
An accepted command's next state is its commit (10_state.md R36): registers written, BUSY = 1, its program in `pending`;
`CommandRunsToItsEnd` says that every such program is then issued whole, event by event, and that BUSY falls and ERR is OK.
-/

open Sys2Proof Sys2Proof.Machine

/-! ## Reset and the step -/

/-- 10_state.md R32, first column, and 20_memory.md R55: what reset leaves.
That the host port is empty and the reset line low again is the model's choice (log 18), the codes are a parameter (log 21);
neither is stated. -/
def Obligations.ResetLeavesTheSpecsValues : Prop :=
  State.reset.phase = .unconfigured ∧ State.reset.err.toBits = 0 ∧ State.reset.busy = false ∧
  State.reset.life.pins = none ∧ State.reset.life.regs = none ∧ State.reset.trace = [] ∧
  (∀ p, Memory.dir State.reset.pins p = none ∧ Memory.level State.reset.pins p = none)

/-- 70_reset_and_hazards.md R240, R241: while the reset line is high the engine takes the reset state, from every state and so in
mid-command too, and leaves no request on its ports and `cmd_ready` 1, which is what the host sees when the line is released;
that it is 1 in the held state already is the model's choice (log 7).
The empty trace is R241's: a model that resets in mid-run starts a new trace (log 7). -/
def Obligations.ResetLineTakesTheResetState : Prop :=
  ∀ s : State, s.rst = true → ∃ t, step s = .next t ∧
    t.phase = .unconfigured ∧ t.err.toBits = 0 ∧ t.busy = false ∧ t.life.pins = none ∧ t.life.regs = none ∧
    t.pinValid = false ∧ t.dlyValid = false ∧ t.cmdReady = true ∧ t.trace = []

/-- 10_state.md R32, last paragraph: the engine idles with BUSY = 0 until the host has sent a packet (the host's form: log 4). -/
def Obligations.IdleEngineWaitsForAPacket : Prop :=
  ∀ s : State, s.rst = false → s.busy = false → takePacket s.hostIn = none → step s = .next s

/-- A step of an idle engine runs the instruction the next packet decodes to, with the packet taken from the port, and
refuses a packet that decodes to none with the code of its error (30_encoding.md R83 (1), (2)).
That a whole packet is taken in one step is the model's choice (log 4). -/
def Obligations.StepRunsTheDecodedPacket : Prop :=
  ∀ (s : State) (p : Packet) (rest : List Beat), s.rst = false → Idle s → takePacket s.hostIn = some (p, rest) →
    (∀ i, decodePacket p = .ok i → step s = exec i { s with hostIn := rest }) ∧
    (decodePacket p = .error .illegalOpcode → step s = .next { s with hostIn := rest, err := .illegalOpcode }) ∧
    (decodePacket p = .error .formatError → step s = .next { s with hostIn := rest, err := .formatError })

/-- A step of a busy engine whose program has come to a SendCommand runs the LCD instruction the byte stands for under the
engine's codes, with the call taken from the program (42_transfer_primitives.md R156; the LCD commands as instructions:
log 10). -/
def Obligations.StepRunsTheCalledLcdCommand : Prop :=
  ∀ (s : State) (v : Byte) (ms : List Micro) (i : Instr), s.rst = false → s.busy = true →
    s.pending = .sendCommand v :: ms → decodeLcdWith s.codes v = some i → step s = exec i { s with pending := ms }

/-- How the model lays a table word before the next step: the word's instruction is exactly what that step runs, on the state
with the reset line low, on an idle engine for a host operation and inside a busy one for an LCD command (log 10, 11). -/
def Obligations.TableWordsAreFetchedAndRun : Prop :=
  ∀ (s : State) (nbits w : Nat) (i : Instr), decodeTableWord nbits w = some i →
    (i.space = .hostPacket → step (s.withFetchWord nbits w) = exec i { s with rst := false, busy := false, pending := [] }) ∧
    (i.space = .lcdCommand → step (s.withFetchWord nbits w) = exec i { s with rst := false, busy := true })

/-- 30_encoding.md R80, 20_memory.md R53: a packet crosses the host port as its bytes in order, `cmd_last` on the last one
only, and is taken whole, whatever the host delivers after it. -/
def Obligations.PacketCrossesTheHostPort : Prop :=
  ∀ (p : Packet) (rest : List Beat),
    (packetBeats p).map Beat.data = p.op :: p.args ∧
    (packetBeats p).map Beat.last = List.replicate p.args.length false ++ [true] ∧
    takePacket (packetBeats p ++ rest) = some (p, rest)

/-- 10_state.md R28, 20_memory.md R53: a packet is accepted only when BUSY = 0, and `cmd_ready` is low while BUSY = 1. -/
def Obligations.BusyEngineTakesNoPacket : Prop :=
  ∀ s t : State, s.rst = false → s.busy = true → step s = .next t → t.hostIn = s.hostIn ∧ s.cmdReady = false

/-- Every state has a next state: the engine has no trap and no stuck state (60_exceptions.md, opening paragraph; property 1
of 95_test_vectors.md) (DEDUCED, log 14). -/
def Obligations.EveryStateHasANextState : Prop := ∀ s : State, ∃ t, step s = .next t

/-! ## Encodings -/

/-- Words written out from 30_encoding.md R81, R82 and R89: eight packets (the six formats and the two decode errors) and three
LCD command bytes.
The codes and layouts of the LCD bytes are the spec's general knowledge (log 1). -/
def Obligations.WordsOfTheSpecDecode : Prop :=
  decodeBytes [0x01, 0x0A, 0x00, 0x63, 0x0B, 4, 5, 6, 7] = .ok (.construct 10 none 11 [4, 5, 6, 7]) ∧
  decodeBytes [0x02, 0x10, 0x02, 0x00] = .ok (.init 16 2 0) ∧
  decodeBytes [0x05, 0x00, 0x01] = .ok (.setCursor 0 1) ∧
  decodeBytes [0x12, 0x01, 0x00] = .ok (.createChar 1 [0]) ∧
  decodeBytes [0x13, 0x48, 0x49] = .ok (.print [0x48, 0x49]) ∧
  decodeBytes [0x0E] = .ok .leftToRight ∧
  decodeBytes [0x03, 0x00] = .error .formatError ∧
  decodeBytes [0x15] = .error .illegalOpcode ∧
  decodeLcd 0b00001110 = some (.lcdDisplayControl true true false) ∧
  decodeLcd 0b00101000 = some (.lcdFunctionSet false true false) ∧
  decodeLcd 0b11000101 = some (.lcdSetDdramAddr 0x45)

/-- 30_encoding.md R82, R83 (1), R84: the opcodes 0x00 and 0x15 to 0xFF, and no others, are illegal. -/
def Obligations.IllegalOpcodesAreTheUnassignedOnes : Prop :=
  ∀ p : Packet, decodePacket p = .error .illegalOpcode ↔ p.op = 0x00 ∨ 0x15 ≤ p.op.toNat

/-- 30_encoding.md R83 (2): the length check of each format and the check of rwen, on packets of assigned opcodes; a packet
that passes them decodes. -/
def Obligations.FormatErrorsAreTheLengthErrors : Prop :=
  ∀ p : Packet, opcodeAssigned p.op = true →
    (formatFits p = false → decodePacket p = .error .formatError) ∧
    (formatFits p = true → ∃ i, decodePacket p = .ok i)

/-- Decode and encode agree, over both spaces and all operands: an instruction is read back from its encoding; a packet that
decodes is the encoding of what it decodes to, but for the rw byte that R83 ignores when rwen = 0.
For every LcdCodes record, a byte decodes to an LCD command exactly if it is some LCD command's byte, and then to one whose byte
it is; with the default codes that command is unique (log 1). -/
def Obligations.DecodeAndEncodeAgree : Prop :=
  (∀ i : Instr, decodeIn i.space (encode i) = some i) ∧
  (∀ (bytes : List Byte) (i : Instr), decodeBytes bytes = .ok i →
    i.space = .hostPacket ∧
    (bytes = encode i ∨
      ∃ rs rw en d, i = .construct rs none en d ∧ bytes = 0x01 :: rs :: 0x00 :: rw :: en :: d)) ∧
  (∀ (c : LcdCodes) (v : Byte) (i : Instr), decodeLcdWith c v = some i → i.space = .lcdCommand ∧ encodeWith c i = [v]) ∧
  (∀ (c : LcdCodes) (v : Byte) (i : Instr), i.space = .lcdCommand → encodeWith c i = [v] → ∃ j, decodeLcdWith c v = some j) ∧
  (∀ (v : Byte) (i : Instr), decodeLcd v = some i ↔ i.space = .lcdCommand ∧ encode i = [v])

/-- 30_encoding.md R89, the layout table: each LCD command byte, bit by bit.
The layouts are the spec's general knowledge (log 1). -/
def Obligations.LcdCommandBytesByLayout : Prop :=
  encode .lcdClearDisplay = [0b00000001] ∧
  encode .lcdReturnHome = [0b00000010] ∧
  (∀ id sh, encode (.lcdEntryModeSet id sh) = [0b000001#6 ++ BitVec.ofBool id ++ BitVec.ofBool sh]) ∧
  (∀ d c b, encode (.lcdDisplayControl d c b) =
    [0b00001#5 ++ BitVec.ofBool d ++ BitVec.ofBool c ++ BitVec.ofBool b]) ∧
  (∀ sc rl, encode (.lcdCursorShift sc rl) = [0b0001#4 ++ BitVec.ofBool sc ++ BitVec.ofBool rl ++ 0b00#2]) ∧
  (∀ dl n f, encode (.lcdFunctionSet dl n f) =
    [0b001#3 ++ BitVec.ofBool dl ++ BitVec.ofBool n ++ BitVec.ofBool f ++ 0b00#2]) ∧
  (∀ a, encode (.lcdSetCgramAddr a) = [0b01#2 ++ a]) ∧
  (∀ a, encode (.lcdSetDdramAddr a) = [0b1#1 ++ a])

/-- 30_encoding.md R90 to R95, with the default codes: the command bytes the engine assembles are the LCD instructions with the
register's fields and the operands' bits.
The bit positions are the spec's general knowledge (log 1). -/
def Obligations.AssembledBytesCarryTheFields : Prop :=
  (∀ func : Byte, func &&& 0xE3 = 0 → decodeLcd (functionSetByte lcdCodes func) =
    some (.lcdFunctionSet (func.getLsbD 4) (func.getLsbD 3) (func.getLsbD 2))) ∧
  (∀ dctrl : Byte, dctrl &&& 0xF8 = 0 → decodeLcd (displayControlByte lcdCodes dctrl) =
    some (.lcdDisplayControl (dctrl.getLsbD 2) (dctrl.getLsbD 1) (dctrl.getLsbD 0))) ∧
  (∀ emode : Byte, emode &&& 0xFC = 0 → decodeLcd (entryModeByte lcdCodes emode) =
    some (.lcdEntryModeSet (emode.getLsbD 1) (emode.getLsbD 0))) ∧
  (∀ col offset : Byte, decodeLcd (setDdramByte lcdCodes col offset) =
    some (.lcdSetDdramAddr (BitVec.ofNat 7 ((col.toNat + offset.toNat) % 128)))) ∧
  (∀ location : Byte, decodeLcd (setCgramByte lcdCodes location) =
    some (.lcdSetCgramAddr (BitVec.ofNat 6 (8 * (location.toNat % 8))))) ∧
  decodeLcd (shiftLeftByte lcdCodes) = some (.lcdCursorShift true false) ∧
  decodeLcd (shiftRightByte lcdCodes) = some (.lcdCursorShift true true)

/-- 20_memory.md R51, R52, 30_encoding.md R98: an event crosses its port without loss, and at most one port has a request. -/
def Obligations.EventsCrossTheirPorts : Prop :=
  (∀ e : Event, e.request.event = some e) ∧
  (∀ s : State, ¬ (s.pinValid = true ∧ s.dlyValid = true)) ∧
  (∀ s : State, (s.pinValid = true ∨ s.dlyValid = true) → s.busy = true)

/-! ## Checks and refusals -/

/-- 60_exceptions.md R215, R216, 30_encoding.md R83: the fixed order of the checks of a packet, and the code of the first that
fails; a packet that passes all of them is accepted. -/
def Obligations.FirstFailingCheckGivesTheCode : Prop :=
  ∀ (p : Packet) (s : State), Idle s →
    (opcodeAssigned p.op = false → runPacket p s = .next { s with err := .illegalOpcode }) ∧
    (opcodeAssigned p.op = true → formatFits p = false → runPacket p s = .next { s with err := .formatError }) ∧
    (opcodeAssigned p.op = true → formatFits p = true → ∃ i, decodePacket p = .ok i ∧
      (acceptedIn i s.phase = false → runPacket p s = .next { s with err := .phaseError }) ∧
      (∀ e, acceptedIn i s.phase = true → argumentError i s = some e → runPacket p s = .next { s with err := e }) ∧
      (acceptedIn i s.phase = true → argumentError i s = none →
        ∃ life program, runPacket p s = .next { s with life := life, busy := true, pending := program }))

/-- 60_exceptions.md R212: a refused packet emits nothing and writes no register but ERR; the engine is idle again, and what it
answers is never OK and never the reserved code. -/
def Obligations.RefusedPacketWritesOnlyErr : Prop :=
  ∀ (p : Packet) (s t : State), Idle s → runPacket p s = .next t → t.busy = false →
    t.err ≠ .ok ∧ t.err ≠ .rangeError ∧ t = { s with err := t.err }

/-- 10_state.md R35, R36, 60_exceptions.md R212: what a host operation does when it is run: it writes no event and no latch and
takes no input; either it is refused, and leaves the registers and nothing to issue (R212), or it is committed with BUSY = 1.
That ERR is unchanged while BUSY = 1 is the model's choice (log 3): R211 gives ERR at the end of a command. -/
def Obligations.CommitIssuesNothing : Prop :=
  ∀ (i : Instr) (s t : State), i.space = .hostPacket → exec i s = .next t →
    t.trace = s.trace ∧ t.pins = s.pins ∧ t.hostIn = s.hostIn ∧ t.rst = s.rst ∧
    (t.busy = true → t.err = s.err) ∧ (t.busy = false → t.life = s.life ∧ t.pending = [])

/-! ## Lifecycle -/

/-- 40_lifecycle.md R121: CONSTRUCT loads the Pin Assignment in UNCONFIGURED, with 4 or with 8 data pins, and emits nothing;
any other count is a ConfigError, any other phase a PhaseError. -/
def Obligations.ConstructLoadsThePinAssignment : Prop :=
  ∀ (rs : PinId) (rw : Option PinId) (en : PinId) (s : State),
    (s.life = .unconfigured →
      (∀ d0 d1 d2 d3, exec (.construct rs rw en [d0, d1, d2, d3]) s =
        .next { s with life := .configured ⟨rs, rw, en, .four d0 d1 d2 d3⟩, busy := true, pending := [] }) ∧
      (∀ d0 d1 d2 d3 d4 d5 d6 d7, exec (.construct rs rw en [d0, d1, d2, d3, d4, d5, d6, d7]) s =
        .next { s with life := .configured ⟨rs, rw, en, .eight d0 d1 d2 d3 d4 d5 d6 d7⟩, busy := true, pending := [] })) ∧
    (∀ d, Idle s → s.life = .unconfigured → d.length ≠ 4 → d.length ≠ 8 →
      exec (.construct rs rw en d) s = .next { s with err := .configError }) ∧
    (∀ d, Idle s → s.life ≠ .unconfigured → exec (.construct rs rw en d) s = .next { s with err := .phaseError })

/-- 40_lifecycle.md R122: DISPOSE makes every owned pin an input, in the order RS, RW if present, E, D[0..PA_N-1], and empties
every register; in UNCONFIGURED it is a PhaseError. -/
def Obligations.DisposeReleasesThePins : Prop :=
  ∀ s : State,
    (∀ pa, s.life.pins = some pa → exec .dispose s = .next { s with
      life := .unconfigured, busy := true,
      pending := .emit (.cfg pa.rs .input) :: (pa.rw.toList.map fun p => .emit (.cfg p .input)) ++
        .emit (.cfg pa.en .input) :: pa.data.toList.map fun p => .emit (.cfg p .input) }) ∧
    (Idle s → s.life = .unconfigured → exec .dispose s = .next { s with err := .phaseError })

/-- 70_reset_and_hazards.md R246: run to its end, DISPOSE leaves the engine as after reset but for the trace and the inputs,
and every owned pin is an input with its level latch as before (20_memory.md R55, where 93_implementation_defined.md U12 calls
the level unknown to the engine: log 8).
That it comes to its end rests on ports that always answer (log 19). -/
def Obligations.DisposeLeavesAFreshEngine : Prop :=
  ∀ (s : State) (pa : PinAssignment), s.rst = false → s.life.pins = some pa →
    ∃ t u k, exec .dispose s = .next t ∧ runSteps k t = .next u ∧
      u = { State.reset with codes := s.codes, hostIn := s.hostIn, pins := u.pins, trace := s.trace ++ t.remaining } ∧
      (∀ p ∈ pa.owned, Memory.dir u.pins p = some .input) ∧
      (∀ p, p ∉ pa.owned → Memory.dir u.pins p = Memory.dir s.pins p) ∧
      (∀ p, Memory.level u.pins p = Memory.level s.pins p)

/-! ## Initialization -/

/-- 41_initialization.md R131: INIT commits the flag registers, NLINES and ROWOFF and runs the ten steps, with 4 data lines and
with 8; any operands are accepted, in CONFIGURED and in READY; with no Pin Assignment it is a PhaseError.
The threshold lines > 1 of the two-line flag is the spec's general knowledge for lines > 2 (R133, log 1). -/
def Obligations.InitRunsTheTenSteps : Prop :=
  (∀ (columns lines dotSize : Byte) (rs : PinId) (rw : Option PinId) (en d0 d1 d2 d3 : PinId) (s : State) (func : Byte),
      s.life.pins = some ⟨rs, rw, en, .four d0 d1 d2 d3⟩ →
      func = (if 1 < lines.toNat then s.codes.LINES_2 else 0) |||
        (if dotSize ≠ 0 ∧ lines.toNat ≤ 1 then s.codes.FONT_5x10 else 0) →
      exec (.init columns lines dotSize) s = .next { s with
        life := .ready ⟨rs, rw, en, .four d0 d1 d2 d3⟩
          { func := func, dctrl := s.codes.DISPLAY_ON, emode := s.codes.ENTRY_LEFT, nlines := lines,
            rowoff := #v[s.codes.ROW_BASE0, s.codes.ROW_BASE1, s.codes.ROW_BASE0 + columns,
              s.codes.ROW_BASE1 + columns] },
        busy := true,
        pending :=
          [.emit (.cfg rs .output)] ++ (rw.toList.map fun p => .emit (.cfg p .output)) ++ [.emit (.cfg en .output),
            .emit (.cfg d0 .output), .emit (.cfg d1 .output), .emit (.cfg d2 .output), .emit (.cfg d3 .output),
            .emit (.delay 50000), .emit (.wr rs false), .emit (.wr en false)] ++
          (rw.toList.map fun p => .emit (.wr p false)) ++
          [.write4 0x3, .emit (.delay 4500), .write4 0x3, .emit (.delay 4500), .write4 0x3, .emit (.delay 150), .write4 0x2,
            .sendCommand (s.codes.FUNCTIONSET ||| func),
            .sendCommand (s.codes.DISPLAYCONTROL ||| s.codes.DISPLAY_ON),
            .sendCommand s.codes.CLEARDISPLAY, .emit (.delay 2000),
            .sendCommand (s.codes.ENTRYMODESET ||| s.codes.ENTRY_LEFT)] }) ∧
  (∀ (columns lines dotSize : Byte) (rs : PinId) (rw : Option PinId) (en d0 d1 d2 d3 d4 d5 d6 d7 : PinId) (s : State)
      (func : Byte),
      s.life.pins = some ⟨rs, rw, en, .eight d0 d1 d2 d3 d4 d5 d6 d7⟩ →
      func = s.codes.BUS_8BIT ||| (if 1 < lines.toNat then s.codes.LINES_2 else 0) |||
        (if dotSize ≠ 0 ∧ lines.toNat ≤ 1 then s.codes.FONT_5x10 else 0) →
      exec (.init columns lines dotSize) s = .next { s with
        life := .ready ⟨rs, rw, en, .eight d0 d1 d2 d3 d4 d5 d6 d7⟩
          { func := func, dctrl := s.codes.DISPLAY_ON, emode := s.codes.ENTRY_LEFT, nlines := lines,
            rowoff := #v[s.codes.ROW_BASE0, s.codes.ROW_BASE1, s.codes.ROW_BASE0 + columns,
              s.codes.ROW_BASE1 + columns] },
        busy := true,
        pending :=
          [.emit (.cfg rs .output)] ++ (rw.toList.map fun p => .emit (.cfg p .output)) ++ [.emit (.cfg en .output),
            .emit (.cfg d0 .output), .emit (.cfg d1 .output), .emit (.cfg d2 .output), .emit (.cfg d3 .output),
            .emit (.cfg d4 .output), .emit (.cfg d5 .output), .emit (.cfg d6 .output), .emit (.cfg d7 .output),
            .emit (.delay 50000), .emit (.wr rs false), .emit (.wr en false)] ++
          (rw.toList.map fun p => .emit (.wr p false)) ++
          [.sendCommand (s.codes.FUNCTIONSET ||| func), .emit (.delay 4500),
            .sendCommand (s.codes.FUNCTIONSET ||| func), .emit (.delay 150),
            .sendCommand (s.codes.FUNCTIONSET ||| func),
            .sendCommand (s.codes.FUNCTIONSET ||| func),
            .sendCommand (s.codes.DISPLAYCONTROL ||| s.codes.DISPLAY_ON),
            .sendCommand s.codes.CLEARDISPLAY, .emit (.delay 2000),
            .sendCommand (s.codes.ENTRYMODESET ||| s.codes.ENTRY_LEFT)] }) ∧
  (∀ (columns lines dotSize : Byte) (s : State), Idle s → s.life = .unconfigured →
    exec (.init columns lines dotSize) s = .next { s with err := .phaseError })

/-- 41_initialization.md R133: the fields of FUNC as INIT computes them with the default codes.
The bit positions and the threshold lines > 1 are the spec's general knowledge (log 1). -/
def Obligations.InitComputesTheFunctionFlags : Prop :=
  ∀ (pa : PinAssignment) (lines dotSize : Byte),
    ((functionFlags lcdCodes pa lines dotSize).getLsbD 4 = true ↔ pa.n = 8) ∧
    ((functionFlags lcdCodes pa lines dotSize).getLsbD 3 = true ↔ 1 < lines.toNat) ∧
    ((functionFlags lcdCodes pa lines dotSize).getLsbD 2 = true ↔ dotSize ≠ 0 ∧ lines.toNat ≤ 1) ∧
    functionFlags lcdCodes pa lines dotSize &&& 0xE3 = 0

/-- 42_transfer_primitives.md R160 (d), 41_initialization.md R136, R137: the latched transfers of INIT, from lines on which
enable is not known to be high.
The sampling edge is the spec's general knowledge (log 16). -/
def Obligations.InitLatchesItsPrimingAndFourCommands : Prop :=
  ∀ (columns lines dotSize : Byte) (pa : PinAssignment) (s t : State), DistinctPins pa → s.life.pins = some pa →
    Memory.level s.pins pa.en ≠ some true → exec (.init columns lines dotSize) s = .next t →
    latched pa s.pins t.remaining =
      (if pa.n = 8 then List.replicate 3 (Transfer.ofValue false (functionSetByte s.codes (functionFlags s.codes pa lines dotSize)))
       else [Transfer.ofValue false (0x3 : Nibble), Transfer.ofValue false (0x3 : Nibble),
         Transfer.ofValue false (0x3 : Nibble), Transfer.ofValue false (0x2 : Nibble)]) ++
      byteTransfers pa (functionSetByte s.codes (functionFlags s.codes pa lines dotSize)) false ++
      byteTransfers pa (s.codes.DISPLAYCONTROL ||| s.codes.DISPLAY_ON) false ++
      byteTransfers pa s.codes.CLEARDISPLAY false ++
      byteTransfers pa (s.codes.ENTRYMODESET ||| s.codes.ENTRY_LEFT) false

/-! ## Display commands -/

/-- 43_display_commands.md R171, R172: CLEAR and HOME send their command byte and then wait 2000 microseconds; they write no
register; outside READY they are refused. -/
def Obligations.ClearAndHomeSendAndWait : Prop :=
  ∀ s : State,
    (∀ pa r, s.life = .ready pa r →
      exec .clear s = .next { s with busy := true, pending := [.sendCommand s.codes.CLEARDISPLAY, .emit (.delay 2000)] } ∧
      exec .home s = .next { s with busy := true, pending := [.sendCommand s.codes.RETURNHOME, .emit (.delay 2000)] }) ∧
    (Idle s → s.phase ≠ .ready →
      exec .clear s = .next { s with err := .phaseError } ∧ exec .home s = .next { s with err := .phaseError })

/-- 43_display_commands.md R173: SETCURSOR sends set-DDRAM-address with the column plus the offset of the clamped row; with
NLINES = 0 it is a RowUnderflow, outside READY a PhaseError. -/
def Obligations.SetCursorSendsTheClampedAddress : Prop :=
  ∀ (col row : Byte) (s : State),
    (∀ pa r k, s.life = .ready pa r → r.nlines ≠ 0 → ∀ h : k < 4, k = min row.toNat (min 4 r.nlines.toNat - 1) →
      exec (.setCursor col row) s = .next { s with
        busy := true, pending := [.sendCommand (s.codes.SETDDRAMADDR ||| (col + r.rowoff[k]))] }) ∧
    (∀ pa r, Idle s → s.life = .ready pa r → r.nlines = 0 →
      exec (.setCursor col row) s = .next { s with err := .rowUnderflow }) ∧
    (Idle s → s.phase ≠ .ready → exec (.setCursor col row) s = .next { s with err := .phaseError })

/-- 43_display_commands.md R176: a row at or beyond the line count acts as the last configured row, a row at or beyond the
table length as the last row of the table, and the smaller clamp wins. -/
def Obligations.RowsBeyondTheEndActAsTheLastRow : Prop :=
  ∀ (col row : Byte) (s : State) (pa : PinAssignment) (r : DataRegs), s.life = .ready pa r →
    (r.nlines.toNat ≤ row.toNat → r.nlines ≠ 0 → r.nlines.toNat ≤ 4 →
      exec (.setCursor col row) s = exec (.setCursor col (r.nlines - 1)) s) ∧
    (4 ≤ row.toNat → 4 ≤ r.nlines.toNat → exec (.setCursor col row) s = exec (.setCursor col 3) s)

/-- 43_display_commands.md R174, R175: the scroll commands send one cursor/display-shift byte and keep no state.
That they do, and the byte's bits, are the spec's general knowledge and its decision D23 (log 1, 17). -/
def Obligations.ScrollCommandsSendOneShift : Prop :=
  ∀ s : State,
    (∀ pa r, s.life = .ready pa r →
      exec .scrollLeft s = .next { s with
        busy := true, pending := [.sendCommand (s.codes.CURSORSHIFT ||| s.codes.DISPLAY_MOVE)] } ∧
      exec .scrollRight s = .next { s with
        busy := true,
        pending := [.sendCommand (s.codes.CURSORSHIFT ||| s.codes.DISPLAY_MOVE ||| s.codes.MOVE_RIGHT)] }) ∧
    (Idle s → s.phase ≠ .ready →
      exec .scrollLeft s = .next { s with err := .phaseError } ∧ exec .scrollRight s = .next { s with err := .phaseError })

/-! ## Flag commands -/

/-- 44_flag_commands.md R181 to R186: DISPLAY, NODISPLAY, CURSOR, NOCURSOR, BLINK, NOBLINK set or clear one bit of DCTRL and
send the whole register, and nothing else is written; outside READY each is a PhaseError. -/
def Obligations.DisplayControlCommandsResendDctrl : Prop :=
  ∀ s : State,
    (∀ pa r, s.life = .ready pa r →
      let commit (v : Byte) : Host.Outcome State Fault Refusal :=
        .next { s with
          life := .ready pa { r with dctrl := v }, busy := true,
          pending := [.sendCommand (s.codes.DISPLAYCONTROL ||| v)] }
      exec .display s = commit (r.dctrl ||| s.codes.DISPLAY_ON) ∧
      exec .noDisplay s = commit (r.dctrl &&& ~~~s.codes.DISPLAY_ON) ∧
      exec .cursor s = commit (r.dctrl ||| s.codes.CURSOR_ON) ∧
      exec .noCursor s = commit (r.dctrl &&& ~~~s.codes.CURSOR_ON) ∧
      exec .blink s = commit (r.dctrl ||| s.codes.BLINK_ON) ∧
      exec .noBlink s = commit (r.dctrl &&& ~~~s.codes.BLINK_ON)) ∧
    (∀ i ∈ [Instr.display, .noDisplay, .cursor, .noCursor, .blink, .noBlink], Idle s → s.phase ≠ .ready →
      exec i s = .next { s with err := .phaseError })

/-- 44_flag_commands.md R187 to R190: LEFTTORIGHT, RIGHTTOLEFT, AUTOSCROLL, NOAUTOSCROLL set or clear one bit of EMODE and
send the whole register, and nothing else is written; outside READY each is a PhaseError. -/
def Obligations.EntryModeCommandsResendEmode : Prop :=
  ∀ s : State,
    (∀ pa r, s.life = .ready pa r →
      let commit (v : Byte) : Host.Outcome State Fault Refusal :=
        .next { s with
          life := .ready pa { r with emode := v }, busy := true,
          pending := [.sendCommand (s.codes.ENTRYMODESET ||| v)] }
      exec .leftToRight s = commit (r.emode ||| s.codes.ENTRY_LEFT) ∧
      exec .rightToLeft s = commit (r.emode &&& ~~~s.codes.ENTRY_LEFT) ∧
      exec .autoscroll s = commit (r.emode ||| s.codes.ENTRY_SHIFT) ∧
      exec .noAutoscroll s = commit (r.emode &&& ~~~s.codes.ENTRY_SHIFT)) ∧
    (∀ i ∈ [Instr.leftToRight, .rightToLeft, .autoscroll, .noAutoscroll], Idle s → s.phase ≠ .ready →
      exec i s = .next { s with err := .phaseError })

/-- 44_flag_commands.md R191 (a): running a flag command twice, to its end each time, gives the registers of the first run and
sends the same byte both times. -/
def Obligations.FlagCommandsAreIdempotent : Prop :=
  ∀ (s t u : State) (i : Instr), s.phase = .ready →
    i ∈ [Instr.display, .noDisplay, .cursor, .noCursor, .blink, .noBlink, .leftToRight, .rightToLeft, .autoscroll,
      .noAutoscroll] →
    exec i s = .next t → exec i { t with busy := false, pending := [], trace := t.trace ++ t.remaining } = .next u →
    u.life = t.life ∧ u.pending = t.pending

/-- 44_flag_commands.md R191 (b): each setter followed by its clearer restores the registers when the bit was 0, and each
clearer followed by its setter when it was 1.
The bit is the pair's code, whatever its value. -/
def Obligations.FlagCommandPairsAreInverse : Prop :=
  ∀ (s t u : State) (pa : PinAssignment) (r : DataRegs) (setter clearer : Instr) (reg : DataRegs → Byte)
    (code : LcdCodes → Byte),
    s.life = .ready pa r →
    (setter, clearer, reg, code) ∈ [(Instr.display, Instr.noDisplay, DataRegs.dctrl, LcdCodes.DISPLAY_ON),
      (.cursor, .noCursor, DataRegs.dctrl, LcdCodes.CURSOR_ON), (.blink, .noBlink, DataRegs.dctrl, LcdCodes.BLINK_ON),
      (.leftToRight, .rightToLeft, DataRegs.emode, LcdCodes.ENTRY_LEFT),
      (.autoscroll, .noAutoscroll, DataRegs.emode, LcdCodes.ENTRY_SHIFT)] →
    (reg r &&& code s.codes = 0 → exec setter s = .next t →
      exec clearer { t with busy := false, pending := [] } = .next u → u.life = s.life) ∧
    (reg r &&& code s.codes = code s.codes → exec clearer s = .next t →
      exec setter { t with busy := false, pending := [] } = .next u → u.life = s.life)

/-! ## Data commands -/

/-- 45_data_commands.md R201: CREATECHAR sends set-CGRAM-address for the masked location, then the eight bitmap bytes as data;
any other bitmap length is an InvalidArgument, any other phase a PhaseError. -/
def Obligations.CreateCharSendsAddressAndBitmap : Prop :=
  ∀ (location : Byte) (s : State),
    (∀ pa r b0 b1 b2 b3 b4 b5 b6 b7, s.life = .ready pa r →
      exec (.createChar location [b0, b1, b2, b3, b4, b5, b6, b7]) s = .next { s with
        busy := true,
        pending := [.sendCommand (s.codes.SETCGRAMADDR ||| ((location &&& 7) <<< s.codes.CGRAM_SLOT_SHIFT)), .sendCharacter b0,
          .sendCharacter b1, .sendCharacter b2, .sendCharacter b3, .sendCharacter b4, .sendCharacter b5,
          .sendCharacter b6, .sendCharacter b7] }) ∧
    (∀ bitmap, Idle s → s.phase = .ready → bitmap.length ≠ 8 →
      exec (.createChar location bitmap) s = .next { s with err := .invalidArgument }) ∧
    (∀ bitmap, Idle s → s.phase ≠ .ready →
      exec (.createChar location bitmap) s = .next { s with err := .phaseError })

/-- 45_data_commands.md R202: PRINT sends each byte of the text as data, in order, and nothing for the empty text; outside
READY it is a PhaseError. -/
def Obligations.PrintSendsEachByte : Prop :=
  ∀ (text : List Byte) (s : State),
    (s.phase = .ready → exec (.print text) s = .next { s with busy := true, pending := text.map .sendCharacter }) ∧
    (Idle s → s.phase ≠ .ready → exec (.print text) s = .next { s with err := .phaseError })

/-! ## LCD command bytes and the transfer primitives -/

/-- 30_encoding.md R89, 42_transfer_primitives.md R156: each of the eight LCD commands (clear-display, return-home,
entry-mode-set, display-control, cursor/display-shift, function-set, set-CGRAM-address, set-DDRAM-address), run while a Pin
Assignment is held, sends its byte with register-select low, in place before what is left of the calling command, and writes
no register: the byte the engine's codes assemble, which is that of the layout table when they are the defaults (log 1).
That the table's LCD rows run this way is the model's choice (log 10). -/
def Obligations.LcdCommandsSendTheirByte : Prop :=
  ∀ (s : State) (pa : PinAssignment), s.life.pins = some pa →
    let sends (v : Byte) : Host.Outcome State Fault Refusal :=
      .next { s with busy := true, pending := (send pa v false).map .emit ++ s.pending }
    exec .lcdClearDisplay s = sends s.codes.CLEARDISPLAY ∧
    exec .lcdReturnHome s = sends s.codes.RETURNHOME ∧
    (∀ left shift, exec (.lcdEntryModeSet left shift) s = sends (s.codes.ENTRYMODESET |||
      (if left then s.codes.ENTRY_LEFT else 0) ||| (if shift then s.codes.ENTRY_SHIFT else 0))) ∧
    (∀ d c b, exec (.lcdDisplayControl d c b) s = sends (s.codes.DISPLAYCONTROL |||
      (if d then s.codes.DISPLAY_ON else 0) ||| (if c then s.codes.CURSOR_ON else 0) |||
      (if b then s.codes.BLINK_ON else 0))) ∧
    (∀ sc rl, exec (.lcdCursorShift sc rl) s = sends (s.codes.CURSORSHIFT |||
      (if sc then s.codes.DISPLAY_MOVE else 0) ||| (if rl then s.codes.MOVE_RIGHT else 0))) ∧
    (∀ dl n f, exec (.lcdFunctionSet dl n f) s = sends (s.codes.FUNCTIONSET |||
      (if dl then s.codes.BUS_8BIT else 0) ||| (if n then s.codes.LINES_2 else 0) |||
      (if f then s.codes.FONT_5x10 else 0))) ∧
    (∀ a, exec (.lcdSetCgramAddr a) s = sends (s.codes.SETCGRAMADDR ||| a.setWidth 8)) ∧
    (∀ a, exec (.lcdSetDdramAddr a) s = sends (s.codes.SETDDRAMADDR ||| a.setWidth 8)) ∧
    (DefaultCodes s →
    exec .lcdClearDisplay s = sends 0b00000001 ∧
    exec .lcdReturnHome s = sends 0b00000010 ∧
    (∀ left shift, exec (.lcdEntryModeSet left shift) s = sends (0b000001#6 ++ BitVec.ofBool left ++ BitVec.ofBool shift)) ∧
    (∀ d c b, exec (.lcdDisplayControl d c b) s =
      sends (0b00001#5 ++ BitVec.ofBool d ++ BitVec.ofBool c ++ BitVec.ofBool b)) ∧
    (∀ sc rl, exec (.lcdCursorShift sc rl) s = sends (0b0001#4 ++ BitVec.ofBool sc ++ BitVec.ofBool rl ++ 0b00#2)) ∧
    (∀ dl n f, exec (.lcdFunctionSet dl n f) s =
      sends (0b001#3 ++ BitVec.ofBool dl ++ BitVec.ofBool n ++ BitVec.ofBool f ++ 0b00#2)) ∧
    (∀ a, exec (.lcdSetCgramAddr a) s = sends (0b01#2 ++ a)) ∧
    (∀ a, exec (.lcdSetDdramAddr a) s = sends (0b1#1 ++ a)))

/-- 42_transfer_primitives.md R151: Present writes bit i to data line i, all lines, index 0 first. -/
def Obligations.PresentWritesEveryBitInOrder : Prop :=
  (∀ (d0 d1 d2 d3 : PinId) (x : Nibble), present [d0, d1, d2, d3] x =
    [.wr d0 (x.getLsbD 0), .wr d1 (x.getLsbD 1), .wr d2 (x.getLsbD 2), .wr d3 (x.getLsbD 3)]) ∧
  (∀ (d0 d1 d2 d3 d4 d5 d6 d7 : PinId) (x : Byte), present [d0, d1, d2, d3, d4, d5, d6, d7] x =
    [.wr d0 (x.getLsbD 0), .wr d1 (x.getLsbD 1), .wr d2 (x.getLsbD 2), .wr d3 (x.getLsbD 3),
      .wr d4 (x.getLsbD 4), .wr d5 (x.getLsbD 5), .wr d6 (x.getLsbD 6), .wr d7 (x.getLsbD 7)])

/-- 42_transfer_primitives.md R152: the enable pulse is always these six events and takes 102 microseconds of delays; it
writes no line but enable. -/
def Obligations.PulseIsSixEvents : Prop :=
  ∀ pa : PinAssignment,
    pulse pa = [.wr pa.en false, .delay 1, .wr pa.en true, .delay 1, .wr pa.en false, .delay 100] ∧
    delaySum (pulse pa) = 102 ∧ ∀ p, p ≠ pa.en → writesTo p (pulse pa) = []

/-- 42_transfer_primitives.md R155, R156, R157: Send drives RS, then RW low if present, then the data: one transfer on 8
lines, two on 4, high nibble first; a command has RS low, a character RS high. -/
def Obligations.SendFramesAByte : Prop :=
  ∀ (rs en d0 d1 d2 d3 d4 d5 d6 d7 : PinId) (rw : Option PinId) (v : Byte) (level : Level),
    send ⟨rs, rw, en, .four d0 d1 d2 d3⟩ v level =
      [Event.wr rs level] ++ (rw.toList.map fun p => Event.wr p false) ++
      [Event.wr d0 (v.getLsbD 4), Event.wr d1 (v.getLsbD 5), Event.wr d2 (v.getLsbD 6), Event.wr d3 (v.getLsbD 7)] ++
      pulse ⟨rs, rw, en, .four d0 d1 d2 d3⟩ ++
      [Event.wr d0 (v.getLsbD 0), Event.wr d1 (v.getLsbD 1), Event.wr d2 (v.getLsbD 2), Event.wr d3 (v.getLsbD 3)] ++
      pulse ⟨rs, rw, en, .four d0 d1 d2 d3⟩ ∧
    send ⟨rs, rw, en, .eight d0 d1 d2 d3 d4 d5 d6 d7⟩ v level =
      [Event.wr rs level] ++ (rw.toList.map fun p => Event.wr p false) ++
      [Event.wr d0 (v.getLsbD 0), Event.wr d1 (v.getLsbD 1), Event.wr d2 (v.getLsbD 2), Event.wr d3 (v.getLsbD 3),
        Event.wr d4 (v.getLsbD 4), Event.wr d5 (v.getLsbD 5), Event.wr d6 (v.getLsbD 6), Event.wr d7 (v.getLsbD 7)] ++
      pulse ⟨rs, rw, en, .eight d0 d1 d2 d3 d4 d5 d6 d7⟩ ∧
    (∀ pa, sendCommand pa v = send pa v false ∧ sendCharacter pa v = send pa v true)

/-- 00_scope.md R13, 42_transfer_primitives.md R153, R157: a data byte or a raw nibble a program has come to runs in place,
before what is left of the program; a raw nibble touches only D[0..3] and enable.
That entering a call is a step of its own, which issues no event, is the model's choice (log 3), and so is a raw nibble on 8
lines, where R153 gives none (log 22). -/
def Obligations.DataBytesAndRawNibblesRunInPlace : Prop :=
  ∀ (s : State) (pa : PinAssignment) (ms : List Micro), s.rst = false → s.busy = true → s.life.pins = some pa →
    (∀ v, s.pending = .sendCharacter v :: ms →
      step s = .next { s with pending := (send pa v true).map .emit ++ ms }) ∧
    (∀ x, s.pending = .write4 x :: ms →
      step s = .next { s with pending := (present (pa.data.toList.take 4) x ++ pulse pa).map .emit ++ ms })

/-- 42_transfer_primitives.md R159, 20_memory.md R57 to R59: under DistinctPins, from lines on which enable is not known to be
high, Send latches the byte: whole on 8 lines, as its high and then its low nibble on 4, which together are the byte; enable
ends low.
The sampling edge is the spec's general knowledge (log 16). -/
def Obligations.SendLatchesTheByte : Prop :=
  ∀ (pa : PinAssignment) (m : Memory) (v : Byte) (rs : Level), DistinctPins pa → Memory.level m pa.en ≠ some true →
    latched pa m (send pa v rs) =
      (if pa.n = 8 then [⟨some rs, (List.range 8).map fun i => some (v.getLsbD i)⟩]
       else [⟨some rs, (List.range 4).map fun i => some (v.getLsbD (i + 4))⟩,
         ⟨some rs, (List.range 4).map fun i => some (v.getLsbD i)⟩]) ∧
    highNibble v ++ lowNibble v = v ∧
    Memory.level (applyEvents (send pa v rs) m) pa.en = some false

/-- 42_transfer_primitives.md R160 (d), R159: every host operation but INIT and DISPOSE runs a program of command bytes, data
bytes and delays only; under DistinctPins, from enable low, such a program latches exactly its bytes, in order: one transfer
a byte on 8 lines and two on 4.
The sampling edge is the spec's general knowledge (log 16). -/
def Obligations.ProgramsLatchTheirBytes : Prop :=
  (∀ (i : Instr) (s t : State), i.space = .hostPacket → (∀ columns lines dotSize, i ≠ .init columns lines dotSize) →
    i ≠ .dispose → exec i s = .next t → ∀ u ∈ t.pending, sendsOrWaits u = true) ∧
  (∀ (pa : PinAssignment) (m : Memory) (program : List Micro), DistinctPins pa → Memory.level m pa.en = some false →
    (∀ u ∈ program, sendsOrWaits u = true) →
    latched pa m (eventsOf (some pa) program) = program.flatMap fun u =>
      match u with
      | .sendCommand v => byteTransfers pa v false
      | .sendCharacter v => byteTransfers pa v true
      | .emit _ => []
      | .write4 _ => [])

/-- 70_reset_and_hazards.md R255, 41_initialization.md R141: the number of events and the sum of the delay counts of each
command, by bus width and presence of read/write. -/
def Obligations.CommandsHaveTheTabulatedEventsAndDelays : Prop :=
  ∀ (s t : State) (pa : PinAssignment), s.life.pins = some pa →
    let r := if pa.rwen then 1 else 0
    let counts (i : Instr) (events4 delays4 events8 delays8 : Nat) : Prop := exec i s = .next t → t.busy = true →
      t.remaining.length = (if pa.n = 8 then events8 else events4) ∧
      delaySum t.remaining = (if pa.n = 8 then delays8 else delays4)
    (∀ columns lines dotSize, counts (.init columns lines dotSize) (137 + 6 * r) 62374 (121 + 9 * r) 57364) ∧
    (∀ i ∈ [Instr.clear, .home], counts i (22 + r) 2204 (16 + r) 2102) ∧
    (∀ col row, counts (.setCursor col row) (21 + r) 204 (15 + r) 102) ∧
    (∀ i ∈ [Instr.scrollLeft, .scrollRight, .display, .noDisplay, .cursor, .noCursor, .blink, .noBlink, .leftToRight,
      .rightToLeft, .autoscroll, .noAutoscroll], counts i (21 + r) 204 (15 + r) 102) ∧
    (∀ location bitmap, counts (.createChar location bitmap) (9 * (21 + r)) 1836 (9 * (15 + r)) 918) ∧
    (∀ text, counts (.print text) (text.length * (21 + r)) (text.length * 204) (text.length * (15 + r))
      (text.length * 102)) ∧
    counts .dispose (6 + r) 0 (10 + r) 0

/-! ## Whole-machine rules -/

/-- 10_state.md R26: the transitions of PHASE: CONSTRUCT takes UNCONFIGURED to CONFIGURED, INIT takes CONFIGURED and READY to
READY, DISPOSE takes CONFIGURED and READY to UNCONFIGURED, and no other instruction changes PHASE; a refused command never
does. -/
def Obligations.PhaseChangesOnlyByTheLifecycleCommands : Prop :=
  ∀ (i : Instr) (s t : State), exec i s = .next t →
    (t.phase = s.phase ∨
      ((∃ rs rw en d, i = .construct rs rw en d) ∧ s.phase = .unconfigured ∧ t.phase = .configured) ∨
      ((∃ columns lines dotSize, i = .init columns lines dotSize) ∧ s.phase = .configured ∧ t.phase = .ready) ∨
      (i = .dispose ∧ s.phase ≠ .unconfigured ∧ t.phase = .unconfigured)) ∧
    (t.busy = false → t.life = s.life)

/-- 10_state.md R24: between CONSTRUCT and DISPOSE no step changes the Pin Assignment. -/
def Obligations.PinAssignmentIsNeverReassigned : Prop :=
  ∀ (s t : State) (pa pa' : PinAssignment), s.rst = false → step s = .next t → s.life.pins = some pa →
    t.life.pins = some pa' → pa' = pa

/-- 10_state.md R35: which commands write which registers: FUNC, NLINES and ROWOFF only INIT; DCTRL also the six
display-control commands; EMODE also the four entry-mode commands; the Pin Assignment only CONSTRUCT and DISPOSE; DISPOSE
empties all of them. -/
def Obligations.OnlyTheListedCommandsWriteARegister : Prop :=
  ∀ (i : Instr) (s t : State), exec i s = .next t → i ≠ .dispose →
    ((∀ rs rw en d, i ≠ .construct rs rw en d) → t.life.pins = s.life.pins) ∧
    ((∀ columns lines dotSize, i ≠ .init columns lines dotSize) →
      t.func = s.func ∧ t.nlines = s.nlines ∧ t.rowoff = s.rowoff ∧
      (i ∉ [Instr.display, .noDisplay, .cursor, .noCursor, .blink, .noBlink] → t.dctrl = s.dctrl) ∧
      (i ∉ [Instr.leftToRight, .rightToLeft, .autoscroll, .noAutoscroll] → t.emode = s.emode))

/-- 20_memory.md R65, R66, R55, 00_scope.md R11: a step issues at most one event, the head of the program of the command in
progress; it appends it to the trace, and of all latches of all lines it changes only those the event names: Cfg one
direction, Wr one level, Delay none. -/
def Obligations.StepsIssueEventsOneByOne : Prop :=
  ∀ s t : State, s.rst = false → step s = .next t →
    (t.trace = s.trace ∧ t.pins = s.pins) ∨
    ∃ e, s.busy = true ∧ s.pending = .emit e :: t.pending ∧ t.trace = s.trace ++ [e] ∧
      (∀ q, Memory.dir t.pins q = (match e with
        | .cfg p d => if q = p then some d else Memory.dir s.pins q
        | .wr _ _ => Memory.dir s.pins q
        | .delay _ => Memory.dir s.pins q)) ∧
      (∀ q, Memory.level t.pins q = (match e with
        | .wr p l => if q = p then some l else Memory.level s.pins q
        | .cfg _ _ => Memory.level s.pins q
        | .delay _ => Memory.level s.pins q))

/-- 10_state.md R27, R28, R36, 20_memory.md R65, R66: from any busy state of the invariant, with the reset line low, the
command in progress runs to its end in a known number of steps: the trace gains exactly the events of its program in order,
the latches are those after these events, BUSY falls, ERR is OK, and no register and no input changes.
The number of steps is the model's own (log 3), and that the command ends rests on ports that always answer (log 19). -/
def Obligations.CommandRunsToItsEnd : Prop :=
  ∀ s : State, Invariant s → s.rst = false → s.busy = true →
    runSteps (stepsToIdle s) s = .next { s with
      busy := false, err := .ok, pending := [], trace := s.trace ++ s.remaining,
      pins := applyEvents s.remaining s.pins }

/-- The invariant, the mirror and the lines at rest hold at reset. -/
def Obligations.ResetMeetsTheInvariants : Prop := Invariant State.reset ∧ Mirror State.reset ∧ LinesAtRest State.reset

/-- Every step from a state of the invariant leads to a state of the invariant: the pin space stays canonical, the flag
registers stay within their fields (10_state.md R20 to R22, 41_initialization.md R133, 44_flag_commands.md R191 (d)), nothing
is in flight with BUSY = 0 (20_memory.md R66), only command bytes the rules assemble are on their way (30_encoding.md R89 to
R95), and the reserved result code is never set (60_exceptions.md R218).
For every LcdCodes record; bit positions and byte layouts under the defaults (log 1). -/
def Obligations.EveryStepKeepsTheInvariant : Prop := ∀ s t : State, Invariant s → step s = .next t → Invariant t

/-- 10_state.md R30: no step desynchronises the flag registers from what was last transmitted: in READY the last function-set,
display-control and entry-mode bytes of the trace and of what the command in progress has still to send are those of FUNC,
DCTRL and EMODE.
With BUSY = 0 that is the trace itself.
Under the default codes, which tell the kinds of bytes apart (log 1). -/
def Obligations.EveryStepKeepsTheMirror : Prop :=
  ∀ s t : State, Invariant s → Mirror s → step s = .next t → Mirror t ∧ (t.busy = false → t.remaining = [])

/-- 42_transfer_primitives.md R160 (a), (b): under DistinctPins, from INIT on, every command leaves enable low and read/write
low. -/
def Obligations.EveryStepKeepsTheLinesAtRest : Prop :=
  ∀ s t : State, Invariant s → LinesAtRest s → step s = .next t → LinesAtRest t

/-- 42_transfer_primitives.md R155: under DistinctPins no command ever drives read/write high. -/
def Obligations.ReadWriteIsNeverDrivenHigh : Prop :=
  ∀ (s t : State) (pa : PinAssignment) (p : PinId) (i : Instr), Idle s → s.life.pins = some pa → DistinctPins pa →
    pa.rw = some p → exec i s = .next t → true ∉ writesTo p t.remaining

/-- 42_transfer_primitives.md R163: under DistinctPins every byte sent writes enable low, high, low for each transfer and
never otherwise. -/
def Obligations.EveryByteHasItsPulses : Prop :=
  ∀ (pa : PinAssignment) (v : Byte) (rs : Level), DistinctPins pa →
    writesTo pa.en (send pa v rs) =
      if pa.n = 8 then [false, true, false] else [false, true, false, false, true, false]

/-! ## The LcdCodes record -/

/-- 42_transfer_primitives.md R156, 30_encoding.md R88: whatever the LcdCodes record, a step that has come to SendCommand of a
byte puts the events of that very byte, with register-select low, before what is left of the program, and changes nothing
else.
That entering the call is a step of its own is the model's choice (log 3). -/
def Obligations.CommandBytesAreSentAsTheyStand : Prop :=
  ∀ (s : State) (pa : PinAssignment) (v : Byte) (ms : List Micro), s.rst = false → s.busy = true →
    s.life.pins = some pa → s.pending = .sendCommand v :: ms →
    step s = .next { s with pending := (send pa v false).map .emit ++ ms }

/-- 00_scope.md R8, 30_encoding.md R88: the LcdCodes record is a parameter: no instruction and no step, a reset included, changes
it.
That it stands in State is the model's choice (log 21). -/
def Obligations.CodesAreNeverChanged : Prop :=
  (∀ s t : State, step s = .next t → t.codes = s.codes) ∧
  (∀ (i : Instr) (s t : State), exec i s = .next t → t.codes = s.codes)
end

