-- ==== Sys2Proof/Laws/State.lean ====
section
/-!
SUPPORT. One lemma per field for each operation that updates a state.
-/

namespace Sys2Proof.Machine

section Raise
variable (e : ResultCode) (s : State)
@[simp] theorem raise_codes : (raise e s).codes = s.codes := rfl
@[simp] theorem raise_rst : (raise e s).rst = s.rst := rfl
@[simp] theorem raise_hostIn : (raise e s).hostIn = s.hostIn := rfl
@[simp] theorem raise_life : (raise e s).life = s.life := rfl
@[simp] theorem raise_err : (raise e s).err = e := rfl
@[simp] theorem raise_busy : (raise e s).busy = false := rfl
@[simp] theorem raise_pending : (raise e s).pending = [] := rfl
@[simp] theorem raise_pins : (raise e s).pins = s.pins := rfl
@[simp] theorem raise_trace : (raise e s).trace = s.trace := rfl
end Raise

section Accept
variable (life : Lifecycle) (program : List Micro) (s : State)
@[simp] theorem accept_codes : (accept life program s).codes = s.codes := rfl
@[simp] theorem accept_rst : (accept life program s).rst = s.rst := rfl
@[simp] theorem accept_hostIn : (accept life program s).hostIn = s.hostIn := rfl
@[simp] theorem accept_life : (accept life program s).life = life := rfl
@[simp] theorem accept_err : (accept life program s).err = s.err := rfl
@[simp] theorem accept_busy : (accept life program s).busy = true := rfl
@[simp] theorem accept_pending : (accept life program s).pending = program := rfl
@[simp] theorem accept_pins : (accept life program s).pins = s.pins := rfl
@[simp] theorem accept_trace : (accept life program s).trace = s.trace := rfl
end Accept

section Complete
variable (s : State)
@[simp] theorem complete_codes : (complete s).codes = s.codes := rfl
@[simp] theorem complete_rst : (complete s).rst = s.rst := rfl
@[simp] theorem complete_hostIn : (complete s).hostIn = s.hostIn := rfl
@[simp] theorem complete_life : (complete s).life = s.life := rfl
@[simp] theorem complete_err : (complete s).err = .ok := rfl
@[simp] theorem complete_busy : (complete s).busy = false := rfl
@[simp] theorem complete_pending : (complete s).pending = s.pending := rfl
@[simp] theorem complete_pins : (complete s).pins = s.pins := rfl
@[simp] theorem complete_trace : (complete s).trace = s.trace := rfl
end Complete

section Issue
variable (e : Event) (s : State)
@[simp] theorem issue_codes : (issue e s).codes = s.codes := rfl
@[simp] theorem issue_rst : (issue e s).rst = s.rst := rfl
@[simp] theorem issue_hostIn : (issue e s).hostIn = s.hostIn := rfl
@[simp] theorem issue_life : (issue e s).life = s.life := rfl
@[simp] theorem issue_err : (issue e s).err = s.err := rfl
@[simp] theorem issue_busy : (issue e s).busy = s.busy := rfl
@[simp] theorem issue_pending : (issue e s).pending = s.pending := rfl
@[simp] theorem issue_pins : (issue e s).pins = applyEvent e s.pins := rfl
@[simp] theorem issue_trace : (issue e s).trace = s.trace ++ [e] := rfl
end Issue

section Reset
variable (s : State)
@[simp] theorem applyReset_codes : (applyReset s).codes = s.codes := rfl
@[simp] theorem applyReset_rst : (applyReset s).rst = s.rst := rfl
@[simp] theorem applyReset_hostIn : (applyReset s).hostIn = s.hostIn := rfl
@[simp] theorem applyReset_life : (applyReset s).life = .unconfigured := rfl
@[simp] theorem applyReset_err : (applyReset s).err = .ok := rfl
@[simp] theorem applyReset_busy : (applyReset s).busy = false := rfl
@[simp] theorem applyReset_pending : (applyReset s).pending = [] := rfl
@[simp] theorem applyReset_pins : (applyReset s).pins = [] := rfl
@[simp] theorem applyReset_trace : (applyReset s).trace = [] := rfl
end Reset

section LifecycleViews
variable (pa : PinAssignment) (r : DataRegs)
@[simp] theorem phase_unconfigured : Lifecycle.unconfigured.phase = .unconfigured := rfl
@[simp] theorem phase_configured : (Lifecycle.configured pa).phase = .configured := rfl
@[simp] theorem phase_ready : (Lifecycle.ready pa r).phase = .ready := rfl
@[simp] theorem pins_unconfigured : Lifecycle.unconfigured.pins = none := rfl
@[simp] theorem pins_configured : (Lifecycle.configured pa).pins = some pa := rfl
@[simp] theorem pins_ready : (Lifecycle.ready pa r).pins = some pa := rfl
@[simp] theorem regs_unconfigured : Lifecycle.unconfigured.regs = none := rfl
@[simp] theorem regs_configured : (Lifecycle.configured pa).regs = none := rfl
@[simp] theorem regs_ready : (Lifecycle.ready pa r).regs = some r := rfl
end LifecycleViews

end Sys2Proof.Machine
end

