-- ==== Sys2Proof/Laws/Ops.lean ====
section
/-!
SUPPORT. What each shared operation can do, said once: the phase checks, the calls, the programs and their events.
-/

namespace Sys2Proof.Machine

/-! ## Phase checks -/

theorem whenReady_ready {f : PinAssignment → DataRegs → State → State} {s : State} {pa : PinAssignment} {r : DataRegs}
    (h : s.life = .ready pa r) : whenReady f s = f pa r s := by
  simp [whenReady, h]

theorem whenReady_other {f : PinAssignment → DataRegs → State → State} {s : State} (h : s.phase ≠ .ready) :
    whenReady f s = raise .phaseError s := by
  unfold whenReady
  cases hl : s.life with
  | unconfigured => rfl
  | configured pa => rfl
  | ready pa r => simp [State.phase, hl] at h

/-- A command of READY runs on the registers READY gives it, or is refused with PhaseError. -/
theorem whenReady_cases (f : PinAssignment → DataRegs → State → State) (s : State) :
    (∃ pa r, s.life = .ready pa r ∧ whenReady f s = f pa r s) ∨
      (s.phase ≠ .ready ∧ whenReady f s = raise .phaseError s) := by
  cases hl : s.life with
  | unconfigured =>
    have h : s.phase ≠ .ready := by simp [State.phase, hl]
    exact .inr ⟨h, whenReady_other h⟩
  | configured pa =>
    have h : s.phase ≠ .ready := by simp [State.phase, hl]
    exact .inr ⟨h, whenReady_other h⟩
  | ready pa r => exact .inl ⟨pa, r, rfl, whenReady_ready hl⟩

theorem whenAssigned_some {f : PinAssignment → State → State} {s : State} {pa : PinAssignment}
    (h : s.life.pins = some pa) : whenAssigned f s = f pa s := by
  simp [whenAssigned, h]

theorem whenAssigned_none {f : PinAssignment → State → State} {s : State} (h : s.life.pins = none) :
    whenAssigned f s = raise .phaseError s := by
  simp [whenAssigned, h]

/-- A command of CONFIGURED and READY runs on the Pin Assignment, or is refused with PhaseError. -/
theorem whenAssigned_cases (f : PinAssignment → State → State) (s : State) :
    (∃ pa, s.life.pins = some pa ∧ whenAssigned f s = f pa s) ∨
      (s.life.pins = none ∧ whenAssigned f s = raise .phaseError s) := by
  cases h : s.life.pins with
  | none => exact .inr ⟨rfl, whenAssigned_none h⟩
  | some pa => exact .inl ⟨pa, rfl, whenAssigned_some h⟩

theorem runReady_ready {program : PinAssignment → DataRegs → List Micro} {s : State} {pa : PinAssignment} {r : DataRegs}
    (h : s.life = .ready pa r) : runReady program s = accept s.life (program pa r) s := by
  rw [runReady, whenReady_ready h, h]

theorem runReady_other {program : PinAssignment → DataRegs → List Micro} {s : State} (h : s.phase ≠ .ready) :
    runReady program s = raise .phaseError s := whenReady_other h

theorem callMicro_some {f : PinAssignment → List Event} {s : State} {pa : PinAssignment} (h : s.life.pins = some pa) :
    callMicro f s = { s with busy := true, pending := (f pa).map .emit ++ s.pending } := whenAssigned_some h

theorem callMicro_none {f : PinAssignment → List Event} {s : State} (h : s.life.pins = none) :
    callMicro f s = raise .phaseError s := whenAssigned_none h

/-! ## Data lines -/

theorem toList_length (data : DataLines) : data.toList.length = if data.is8 then 8 else 4 := by
  cases data <;> rfl

theorem ofList_toList (data : DataLines) : DataLines.ofList data.toList = some data := by
  cases data <;> rfl

/-- The data pins of a list exist exactly for the lengths 4 and 8 (40_lifecycle.md R121). -/
theorem ofList_none {d : List PinId} (h4 : d.length ≠ 4) (h8 : d.length ≠ 8) : DataLines.ofList d = none := by
  unfold DataLines.ofList
  split
  · simp at h4
  · simp at h8
  · rfl

theorem ofList_isSome {d : List PinId} (h : d.length = 4 ∨ d.length = 8) : ∃ data, DataLines.ofList d = some data ∧ data.toList = d := by
  rcases h with h | h
  · match d, h with
    | [d0, d1, d2, d3], _ => exact ⟨_, rfl, rfl⟩
  · match d, h with
    | [d0, d1, d2, d3, d4, d5, d6, d7], _ => exact ⟨_, rfl, rfl⟩

/-! ## Events of programs -/

@[simp] theorem eventsOf_nil (pins : Option PinAssignment) : eventsOf pins [] = [] := rfl

@[simp] theorem eventsOf_cons (pins : Option PinAssignment) (m : Micro) (ms : List Micro) :
    eventsOf pins (m :: ms) = microEvents pins m ++ eventsOf pins ms := rfl

@[simp] theorem eventsOf_append (pins : Option PinAssignment) (ms ns : List Micro) :
    eventsOf pins (ms ++ ns) = eventsOf pins ms ++ eventsOf pins ns := by
  simp [eventsOf]

/-- A program of plain events issues those events. -/
@[simp] theorem eventsOf_map_emit (pins : Option PinAssignment) (es : List Event) :
    eventsOf pins (es.map .emit) = es := by
  induction es with
  | nil => rfl
  | cons e es ih => simp [microEvents, ih]

@[simp] theorem microEvents_emit (pins : Option PinAssignment) (e : Event) : microEvents pins (.emit e) = [e] := rfl

@[simp] theorem microEvents_sendCommand (pa : PinAssignment) (v : Byte) :
    microEvents (some pa) (.sendCommand v) = sendCommand pa v := rfl

@[simp] theorem microEvents_sendCharacter (pa : PinAssignment) (v : Byte) :
    microEvents (some pa) (.sendCharacter v) = sendCharacter pa v := rfl

@[simp] theorem microEvents_write4 (pa : PinAssignment) (x : Nibble) : microEvents (some pa) (.write4 x) = write4 pa x := rfl

/-! ## Sizes of the transfer primitives -/

theorem present_length {w : Nat} (ds : List PinId) (x : BitVec w) : (present ds x).length = ds.length := by
  simp [present]

theorem pulse_length (pa : PinAssignment) : (pulse pa).length = 6 := rfl

theorem driveRwLow_length (pa : PinAssignment) : (driveRwLow pa).length = if pa.rwen then 1 else 0 := by
  unfold driveRwLow PinAssignment.rwen
  cases pa.rw <;> rfl

end Sys2Proof.Machine
end

