-- ==== Sys2Proof/Laws/Commands.lean ====
section
/-!
SUPPORT. What a host operation commits, said once: the registers it writes and the program it leaves to the sequencer.
-/

namespace Sys2Proof.Machine

/-- The programs of the commands of READY that write no register. -/
inductive ReadyProgram (c : LcdCodes) : List Micro → Prop where
  | clear : ReadyProgram c [.sendCommand c.CLEARDISPLAY, wait timing.T_CLEAR]
  | home : ReadyProgram c [.sendCommand c.RETURNHOME, wait timing.T_CLEAR]
  | setCursor (col offset : Byte) : ReadyProgram c [.sendCommand (setDdramByte c col offset)]
  | scrollLeft : ReadyProgram c [.sendCommand (shiftLeftByte c)]
  | scrollRight : ReadyProgram c [.sendCommand (shiftRightByte c)]
  | createChar (location : Byte) (bitmap : List Byte) :
    ReadyProgram c (.sendCommand (setCgramByte c location) :: bitmap.map .sendCharacter)
  | print (text : List Byte) : ReadyProgram c (text.map .sendCharacter)

/-- The six commands that write DCTRL, with what each makes of it. -/
def dctrlUpdates (c : LcdCodes) : List (Instr × (Byte → Byte)) :=
  [(.display, (setFlag · c.DISPLAY_ON)), (.noDisplay, (clearFlag · c.DISPLAY_ON)),
    (.cursor, (setFlag · c.CURSOR_ON)), (.noCursor, (clearFlag · c.CURSOR_ON)),
    (.blink, (setFlag · c.BLINK_ON)), (.noBlink, (clearFlag · c.BLINK_ON))]

/-- The four commands that write EMODE, with what each makes of it. -/
def emodeUpdates (c : LcdCodes) : List (Instr × (Byte → Byte)) :=
  [(.leftToRight, (setFlag · c.ENTRY_LEFT)), (.rightToLeft, (clearFlag · c.ENTRY_LEFT)),
    (.autoscroll, (setFlag · c.ENTRY_SHIFT)), (.noAutoscroll, (clearFlag · c.ENTRY_SHIFT))]

/-- What a host operation makes of a state. -/
inductive Commits (i : Instr) (s : State) : State → Prop where
  | refused (e : ResultCode) (h : e ≠ .ok) (h' : e ≠ .rangeError) : Commits i s (raise e s)
  | construct (rs : PinId) (rw : Option PinId) (en : PinId) (data : DataLines)
      (hi : i = .construct rs rw en data.toList) (hl : s.life = .unconfigured) :
      Commits i s (accept (.configured ⟨rs, rw, en, data⟩) [] s)
  | init (pa : PinAssignment) (columns lines dotSize : Byte) (hi : i = .init columns lines dotSize)
      (hl : s.life.pins = some pa) :
      Commits i s (accept (.ready pa (initRegs s.codes pa columns lines dotSize))
        (initProgram s.codes pa (initRegs s.codes pa columns lines dotSize)) s)
  | dispose (pa : PinAssignment) (hi : i = .dispose) (hl : s.life.pins = some pa) :
      Commits i s (accept .unconfigured ((directions pa .input).map .emit) s)
  | sends (pa : PinAssignment) (r : DataRegs) (program : List Micro) (hl : s.life = .ready pa r)
      (hp : ReadyProgram s.codes program) : Commits i s (accept (.ready pa r) program s)
  | dctrl (pa : PinAssignment) (r : DataRegs) (f : Byte → Byte) (hi : (i, f) ∈ dctrlUpdates s.codes) (hl : s.life = .ready pa r) :
      Commits i s (accept (.ready pa { r with dctrl := f r.dctrl }) [.sendCommand (displayControlByte s.codes (f r.dctrl))] s)
  | emode (pa : PinAssignment) (r : DataRegs) (f : Byte → Byte) (hi : (i, f) ∈ emodeUpdates s.codes) (hl : s.life = .ready pa r) :
      Commits i s (accept (.ready pa { r with emode := f r.emode }) [.sendCommand (entryModeByte s.codes (f r.emode))] s)

theorem commits_runReady {i : Instr} {s : State} {program : PinAssignment → DataRegs → List Micro}
    (hp : ∀ pa r, ReadyProgram s.codes (program pa r)) : Commits i s (runReady program s) := by
  unfold runReady
  rcases whenReady_cases (fun pa r s => accept (.ready pa r) (program pa r) s) s with ⟨pa, r, hl, h⟩ | ⟨-, h⟩
  · exact h ▸ .sends pa r _ hl (hp pa r)
  · exact h ▸ .refused _ (by decide) (by decide)

theorem commits_updateDctrl {i : Instr} {s : State} {f : Byte → Byte} (hi : (i, f) ∈ dctrlUpdates s.codes) :
    Commits i s (updateDctrl f s) := by
  unfold updateDctrl
  rcases whenReady_cases (fun pa r s =>
    accept (.ready pa { r with dctrl := f r.dctrl }) [.sendCommand (displayControlByte s.codes (f r.dctrl))] s) s
    with ⟨pa, r, hl, h⟩ | ⟨-, h⟩
  · exact h ▸ .dctrl pa r f hi hl
  · exact h ▸ .refused _ (by decide) (by decide)

theorem commits_updateEmode {i : Instr} {s : State} {f : Byte → Byte} (hi : (i, f) ∈ emodeUpdates s.codes) :
    Commits i s (updateEmode f s) := by
  unfold updateEmode
  rcases whenReady_cases (fun pa r s =>
    accept (.ready pa { r with emode := f r.emode }) [.sendCommand (entryModeByte s.codes (f r.emode))] s) s
    with ⟨pa, r, hl, h⟩ | ⟨-, h⟩
  · exact h ▸ .emode pa r f hi hl
  · exact h ▸ .refused _ (by decide) (by decide)

/-- Every host operation answers a next state, and this is all it can do. -/
theorem exec_commits {i : Instr} (hi : i.space = .hostPacket) (s : State) : ∃ t, exec i s = .next t ∧ Commits i s t := by
  cases i with
  | construct rs rw en d =>
    simp only [exec, execConstruct]
    split
    · rename_i hl
      split
      · rename_i data hd
        have hd' : data.toList = d := by
          unfold DataLines.ofList at hd
          split at hd <;> cases hd <;> rfl
        exact ⟨_, rfl, .construct rs rw en data (by rw [hd']) hl⟩
      · exact ⟨_, rfl, .refused _ (by decide) (by decide)⟩
    · exact ⟨_, rfl, .refused _ (by decide) (by decide)⟩
    · exact ⟨_, rfl, .refused _ (by decide) (by decide)⟩
  | init columns lines dotSize =>
    refine ⟨_, rfl, ?_⟩
    unfold whenAssigned
    split
    · rename_i pa hl
      exact .init pa columns lines dotSize rfl hl
    · exact .refused _ (by decide) (by decide)
  | dispose =>
    refine ⟨_, rfl, ?_⟩
    unfold whenAssigned
    split
    · rename_i pa hl
      exact .dispose pa rfl hl
    · exact .refused _ (by decide) (by decide)
  | setCursor col row =>
    refine ⟨_, rfl, ?_⟩
    unfold whenReady
    split
    · rename_i pa r hl
      dsimp only
      split
      · exact .sends pa r _ hl (.setCursor _ _)
      · exact .refused _ (by decide) (by decide)
    · exact .refused _ (by decide) (by decide)
    · exact .refused _ (by decide) (by decide)
  | createChar location bitmap =>
    refine ⟨_, rfl, ?_⟩
    unfold whenReady
    split
    · rename_i pa r hl
      dsimp only
      split
      · exact .sends pa r _ hl (.createChar _ _)
      · exact .refused _ (by decide) (by decide)
    · exact .refused _ (by decide) (by decide)
    · exact .refused _ (by decide) (by decide)
  | clear => exact ⟨_, rfl, commits_runReady fun _ _ => .clear⟩
  | home => exact ⟨_, rfl, commits_runReady fun _ _ => .home⟩
  | scrollLeft => exact ⟨_, rfl, commits_runReady fun _ _ => .scrollLeft⟩
  | scrollRight => exact ⟨_, rfl, commits_runReady fun _ _ => .scrollRight⟩
  | print text => exact ⟨_, rfl, commits_runReady fun _ _ => .print text⟩
  | display => exact ⟨_, rfl, commits_updateDctrl (by simp [dctrlUpdates])⟩
  | noDisplay => exact ⟨_, rfl, commits_updateDctrl (by simp [dctrlUpdates])⟩
  | cursor => exact ⟨_, rfl, commits_updateDctrl (by simp [dctrlUpdates])⟩
  | noCursor => exact ⟨_, rfl, commits_updateDctrl (by simp [dctrlUpdates])⟩
  | blink => exact ⟨_, rfl, commits_updateDctrl (by simp [dctrlUpdates])⟩
  | noBlink => exact ⟨_, rfl, commits_updateDctrl (by simp [dctrlUpdates])⟩
  | leftToRight => exact ⟨_, rfl, commits_updateEmode (by simp [emodeUpdates])⟩
  | rightToLeft => exact ⟨_, rfl, commits_updateEmode (by simp [emodeUpdates])⟩
  | autoscroll => exact ⟨_, rfl, commits_updateEmode (by simp [emodeUpdates])⟩
  | noAutoscroll => exact ⟨_, rfl, commits_updateEmode (by simp [emodeUpdates])⟩
  | lcdClearDisplay => cases hi
  | lcdReturnHome => cases hi
  | lcdEntryModeSet left shift => cases hi
  | lcdDisplayControl d c b => cases hi
  | lcdCursorShift sc rl => cases hi
  | lcdFunctionSet dl n f => cases hi
  | lcdSetCgramAddr addr => cases hi
  | lcdSetDdramAddr addr => cases hi

end Sys2Proof.Machine
end

