-- ==== Sys2Proof/Laws/Decode.lean ====
section
/-!
SUPPORT. What each decoder can answer: a packet decodes to a host operation only, an LCD byte to an LCD command of that byte.
-/

namespace Sys2Proof.Machine

theorem formatZ_ok {i j : Instr} {args : List Byte} (h : formatZ i args = .ok j) : args = [] ∧ j = i := by
  cases args with
  | nil => exact ⟨rfl, (Except.ok.inj h).symm⟩
  | cons a as => cases h

theorem formatK_ok {args : List Byte} {i : Instr} (h : formatK args = .ok i) :
    ∃ rs rw en d, i = .construct rs rw en d := by
  unfold formatK at h
  split at h
  · split at h
    · cases h; exact ⟨_, _, _, _, rfl⟩
    · split at h
      · cases h; exact ⟨_, _, _, _, rfl⟩
      · cases h
  · cases h

theorem formatI_ok {args : List Byte} {i : Instr} (h : formatI args = .ok i) :
    ∃ columns lines dotSize, args = [columns, lines, dotSize] ∧ i = .init columns lines dotSize := by
  unfold formatI at h
  split at h <;> cases h
  exact ⟨_, _, _, rfl, rfl⟩

theorem formatS_ok {args : List Byte} {i : Instr} (h : formatS args = .ok i) :
    ∃ col row, args = [col, row] ∧ i = .setCursor col row := by
  unfold formatS at h
  split at h <;> cases h
  exact ⟨_, _, rfl, rfl⟩

theorem formatG_ok {args : List Byte} {i : Instr} (h : formatG args = .ok i) :
    ∃ location bitmap, args = location :: bitmap ∧ i = .createChar location bitmap := by
  unfold formatG at h
  split at h <;> cases h
  exact ⟨_, _, rfl, rfl⟩

/-- A packet never decodes to an LCD command (30_encoding.md R87 (c)). -/
theorem decodePacket_space {p : Packet} {i : Instr} (h : decodePacket p = .ok i) : i.space = .hostPacket := by
  unfold decodePacket at h
  split at h
  case h_1 => obtain ⟨_, _, _, _, rfl⟩ := formatK_ok h; rfl
  case h_2 => obtain ⟨_, _, _, _, rfl⟩ := formatI_ok h; rfl
  case h_5 => obtain ⟨_, _, _, rfl⟩ := formatS_ok h; rfl
  case h_18 => obtain ⟨_, _, _, rfl⟩ := formatG_ok h; rfl
  case h_19 => cases h; rfl
  case h_21 => cases h
  all_goals obtain ⟨_, rfl⟩ := formatZ_ok h; rfl

/-- The opcode byte from its number. -/
theorem op_of_toNat {op : Byte} {n : Nat} (h : op.toNat = n) : op = BitVec.ofNat 8 n := by
  subst h; simp

/-- Every reading of a byte is an LCD command. -/
theorem lcdReadings_space {c : LcdCodes} {v : Byte} {i : Instr} (h : i ∈ lcdReadings c v) : i.space = .lcdCommand := by
  simp only [lcdReadings, List.mem_cons, List.not_mem_nil, or_false] at h
  rcases h with rfl | rfl | rfl | rfl | rfl | rfl | rfl | rfl <;> rfl

/-- The LCD instruction read from a byte, under any codes, is an LCD command and is sent as that byte. -/
theorem decodeLcdWith_some {c : LcdCodes} {v : Byte} {i : Instr} (h : decodeLcdWith c v = some i) :
    i.space = .lcdCommand ∧ lcdByte c i = v :=
  ⟨lcdReadings_space (List.mem_of_find?_eq_some h), by simpa using List.find?_some h⟩

/-- The encoding of an LCD command is its byte. -/
theorem encodeWith_lcd {c : LcdCodes} {i : Instr} (h : i.space = .lcdCommand) : encodeWith c i = [lcdByte c i] := by
  cases i <;> first | rfl | cases h

end Sys2Proof.Machine
end

