-- ==== Sys2Proof/Laws/PinSpace.lean ====
section
/-!
SUPPORT. The laws of the pin space: read after write, and that every operation keeps the canonical form.
-/

namespace Sys2Proof.Machine

@[simp] theorem read_nil (a : Nat) : Memory.read [] a = PinLatch.unknown := rfl

@[simp] theorem read_cons (k a : Nat) (v : PinLatch) (m : Memory) :
    Memory.read ((k, v) :: m) a = if a = k then v else Memory.read m a := rfl

theorem read_cell {v : PinLatch} (hv : v ≠ PinLatch.unknown) (a b : Nat) (m : Memory) :
    Memory.read (Memory.cell a v m) b = if b = a then v else Memory.read m b := by
  simp [Memory.cell, hv]

/-- Read after write: the written identifier has the new latches, every other one is as before.
The new latches are known, as those of every event are. -/
theorem read_write {v : PinLatch} (hv : v ≠ PinLatch.unknown) (a b : Nat) (m : Memory) :
    Memory.read (Memory.write m a v) b = if b = a then v else Memory.read m b := by
  induction m with
  | nil => simp [Memory.write, read_cell hv]
  | cons c m ih =>
    obtain ⟨k, u⟩ := c
    simp only [Memory.write]
    split
    · rw [read_cell hv]
    · split
      · rename_i h
        subst h
        rw [read_cell hv]
        by_cases hb : b = a <;> simp [hb]
      · rename_i h
        rw [read_cons, ih, read_cons]
        by_cases hb : b = k
        · subst hb
          simp [Ne.symm h]
        · simp [hb]

theorem wfFrom_mono {lo lo' : Nat} (h : lo' ≤ lo) {m : Memory} (hm : Memory.wfFrom lo m = true) :
    Memory.wfFrom lo' m = true := by
  cases m with
  | nil => rfl
  | cons c m =>
    simp only [Memory.wfFrom, Bool.and_eq_true, decide_eq_true_eq] at hm ⊢
    exact ⟨⟨⟨by omega, hm.1.1.2⟩, hm.1.2⟩, hm.2⟩

theorem wfFrom_cell {lo a : Nat} {v : PinLatch} {m : Memory} (hlo : lo ≤ a) (ha : a < 256)
    (hm : Memory.wfFrom (a + 1) m = true) : Memory.wfFrom lo (Memory.cell a v m) = true := by
  unfold Memory.cell
  split
  · exact wfFrom_mono (by omega) hm
  · rename_i h
    simp [Memory.wfFrom, hlo, ha, h, hm]

theorem wfFrom_write {lo a : Nat} {v : PinLatch} {m : Memory} (hlo : lo ≤ a) (ha : a < 256)
    (hm : Memory.wfFrom lo m = true) : Memory.wfFrom lo (Memory.write m a v) = true := by
  induction m generalizing lo with
  | nil => exact wfFrom_cell hlo ha rfl
  | cons c m ih =>
    obtain ⟨k, u⟩ := c
    simp only [Memory.wfFrom, Bool.and_eq_true, decide_eq_true_eq] at hm
    simp only [Memory.write]
    split
    · rename_i h
      refine wfFrom_cell hlo ha ?_
      simp only [Memory.wfFrom, Bool.and_eq_true, decide_eq_true_eq]
      exact ⟨⟨⟨h, hm.1.1.2⟩, hm.1.2⟩, hm.2⟩
    · split
      · rename_i h
        subst h
        exact wfFrom_cell hlo ha hm.2
      · simp only [Memory.wfFrom, Bool.and_eq_true, decide_eq_true_eq]
        exact ⟨hm.1, ih (by omega) hm.2⟩

/-- Writing one identifier's latches keeps the canonical form. -/
theorem wf_write {m : Memory} (hm : Memory.wf m = true) (p : PinId) (v : PinLatch) :
    Memory.wf (Memory.write m p.toNat v) = true :=
  wfFrom_write (Nat.zero_le _) p.isLt hm

/-- Every event keeps the canonical form. -/
theorem wf_applyEvent {m : Memory} (hm : Memory.wf m = true) (e : Event) : Memory.wf (applyEvent e m) = true := by
  cases e with
  | cfg p d => exact wf_write hm p _
  | wr p l => exact wf_write hm p _
  | delay n => exact hm

/-- The pin space of the reset state is in canonical form. -/
theorem wf_reset : Memory.wf State.reset.pins = true := rfl

@[simp] theorem applyEvents_nil (m : Memory) : applyEvents [] m = m := rfl

@[simp] theorem applyEvents_cons (e : Event) (es : List Event) (m : Memory) :
    applyEvents (e :: es) m = applyEvents es (applyEvent e m) := rfl

@[simp] theorem applyEvents_append (es fs : List Event) (m : Memory) :
    applyEvents (es ++ fs) m = applyEvents fs (applyEvents es m) := by
  simp [applyEvents, List.foldl_append]

/-- A list of events keeps the canonical form. -/
theorem wf_applyEvents {m : Memory} (hm : Memory.wf m = true) (es : List Event) :
    Memory.wf (applyEvents es m) = true := by
  induction es generalizing m with
  | nil => exact hm
  | cons e es ih => exact ih (wf_applyEvent hm e)

theorem known_of_lvl {v : PinLatch} {l : Level} (h : v.lvl = some l) : v ≠ PinLatch.unknown := by
  rintro rfl
  simp [PinLatch.unknown] at h

theorem known_of_dir {v : PinLatch} {d : Dir} (h : v.dir = some d) : v ≠ PinLatch.unknown := by
  rintro rfl
  simp [PinLatch.unknown] at h

/-- Read after write, by pin identifier. -/
theorem read_write_pin {v : PinLatch} (hv : v ≠ PinLatch.unknown) (p q : PinId) (m : Memory) :
    Memory.read (Memory.write m p.toNat v) q.toNat = if q = p then v else Memory.read m q.toNat := by
  simp only [read_write hv, BitVec.toNat_inj]

/-- The level after a write: the written line has the new level, every other line its old one (20_memory.md R55, R56). -/
@[simp] theorem level_wr (m : Memory) (p q : PinId) (l : Level) :
    Memory.level (applyEvent (.wr p l) m) q = if q = p then some l else Memory.level m q := by
  simp only [Memory.level, applyEvent]
  rw [read_write_pin (known_of_lvl rfl)]
  split <;> rfl

/-- A direction request changes no level (R55). -/
@[simp] theorem level_cfg (m : Memory) (p q : PinId) (d : Dir) :
    Memory.level (applyEvent (.cfg p d) m) q = Memory.level m q := by
  simp only [Memory.level, applyEvent]
  rw [read_write_pin (known_of_dir rfl)]
  split
  · rename_i h
    subst h
    rfl
  · rfl

@[simp] theorem level_delay (m : Memory) (q : PinId) (n : DelayCount) :
    Memory.level (applyEvent (.delay n) m) q = Memory.level m q := rfl

/-- The direction after a direction request (R55). -/
@[simp] theorem dir_cfg (m : Memory) (p q : PinId) (d : Dir) :
    Memory.dir (applyEvent (.cfg p d) m) q = if q = p then some d else Memory.dir m q := by
  simp only [Memory.dir, applyEvent]
  rw [read_write_pin (known_of_dir rfl)]
  split <;> rfl

/-- A level write changes no direction (R55). -/
@[simp] theorem dir_wr (m : Memory) (p q : PinId) (l : Level) :
    Memory.dir (applyEvent (.wr p l) m) q = Memory.dir m q := by
  simp only [Memory.dir, applyEvent]
  rw [read_write_pin (known_of_lvl rfl)]
  split
  · rename_i h
    subst h
    rfl
  · rfl

@[simp] theorem dir_delay (m : Memory) (q : PinId) (n : DelayCount) :
    Memory.dir (applyEvent (.delay n) m) q = Memory.dir m q := rfl

end Sys2Proof.Machine
end

