-- ==== Sys2Proof/Laws/Lines.lean ====
section
/-!
SUPPORT. The lines under lists of events: what leaves a level alone, what DistinctPins separates, and the transfers of an
event list cut in two.
-/

namespace Sys2Proof.Machine

/-- A line that no event writes keeps its level. -/
theorem level_of_no_write {p : PinId} {es : List Event} (h : ∀ l, Event.wr p l ∉ es) (m : Memory) :
    Memory.level (applyEvents es m) p = Memory.level m p := by
  induction es generalizing m with
  | nil => rfl
  | cons e es ih =>
    rw [applyEvents_cons, ih fun l hl => h l (List.mem_cons_of_mem _ hl)]
    cases e with
    | cfg q d => simp
    | delay n => simp
    | wr q l =>
      have hq : p ≠ q := by
        rintro rfl
        exact h l (by simp)
      simp [hq]

/-- Present writes only the lines it is given. -/
theorem mem_of_present {w : Nat} {ds : List PinId} {x : BitVec w} {p : PinId} {l : Level}
    (h : Event.wr p l ∈ present ds x) : p ∈ ds := by
  obtain ⟨⟨q, i⟩, hq, he⟩ := List.mem_map.1 h
  cases he
  exact List.fst_mem_of_mem_zipIdx hq

/-- Under DistinctPins, enable is none of the other lines. -/
theorem en_distinct {pa : PinAssignment} (h : DistinctPins pa) :
    pa.en ∉ pa.data.toList ∧ pa.en ≠ pa.rs ∧ ∀ p, pa.rw = some p → pa.en ≠ p := by
  unfold DistinctPins PinAssignment.owned at h
  cases hr : pa.rw <;> simp_all [List.nodup_cons]
  all_goals tauto

/-- Under DistinctPins, read/write is none of the other lines. -/
theorem rw_distinct {pa : PinAssignment} {p : PinId} (h : DistinctPins pa) (hp : pa.rw = some p) :
    p ∉ pa.data.toList ∧ p ≠ pa.rs ∧ p ≠ pa.en := by
  unfold DistinctPins PinAssignment.owned at h
  simp_all [List.nodup_cons]
  tauto

/-- Under DistinctPins, register-select is none of the other lines. -/
theorem rs_distinct {pa : PinAssignment} (h : DistinctPins pa) :
    pa.rs ∉ pa.data.toList ∧ pa.rs ≠ pa.en ∧ ∀ p, pa.rw = some p → pa.rs ≠ p := by
  unfold DistinctPins PinAssignment.owned at h
  cases hr : pa.rw <;> simp_all [List.nodup_cons]

/-- A pulse ends with enable low and leaves every other line alone. -/
theorem level_pulse (pa : PinAssignment) (m : Memory) (p : PinId) :
    Memory.level (applyEvents (pulse pa) m) p = if p = pa.en then some false else Memory.level m p := by
  by_cases hp : p = pa.en <;> simp [pulse, hp]

/-- The latched transfers of two lists of events, one after the other. -/
theorem latched_append (pa : PinAssignment) (m : Memory) (es fs : List Event) :
    latched pa m (es ++ fs) = latched pa m es ++ latched pa (applyEvents es m) fs := by
  induction es generalizing m with
  | nil => simp [latched]
  | cons e es ih =>
    simp only [List.cons_append, latched, ih, applyEvents_cons]
    split <;> simp

/-- Events that never write enable low latch nothing. -/
theorem latched_none {pa : PinAssignment} {es : List Event} (h : Event.wr pa.en false ∉ es) (m : Memory) :
    latched pa m es = [] := by
  induction es generalizing m with
  | nil => rfl
  | cons e es ih =>
    have he : e ≠ .wr pa.en false := by
      rintro rfl
      simp at h
    simp only [latched, latches]
    simp [he]
    exact ih (fun hm => h (List.mem_cons_of_mem _ hm)) _

/-- The writes to a pin of two lists of events, one after the other. -/
theorem writesTo_append (p : PinId) (es fs : List Event) : writesTo p (es ++ fs) = writesTo p es ++ writesTo p fs := by
  induction es with
  | nil => rfl
  | cons e es ih =>
    cases e <;> simp [writesTo, ih]
    split <;> simp

/-- The delay sum of two lists of events, one after the other. -/
theorem delaySum_append (es fs : List Event) : delaySum (es ++ fs) = delaySum es + delaySum fs := by
  induction es with
  | nil => simp [delaySum]
  | cons e es ih => cases e <;> simp [delaySum, ih, Nat.add_assoc]

theorem delaySum_present {w : Nat} (ds : List PinId) (x : BitVec w) : delaySum (present ds x) = 0 := by
  unfold present
  generalize ds.zipIdx = l
  induction l with
  | nil => rfl
  | cons a l ih => simpa [delaySum] using ih

theorem delaySum_driveRwLow (pa : PinAssignment) : delaySum (driveRwLow pa) = 0 := by
  unfold driveRwLow
  split <;> rfl

/-- The size of Send (42_transfer_primitives.md R155). -/
theorem send_length (pa : PinAssignment) (v : Byte) (rs : Level) :
    (send pa v rs).length = (if pa.n = 8 then 15 else 21) + if pa.rwen then 1 else 0 := by
  have hl := toList_length pa.data
  unfold send PinAssignment.n write4 write8
  cases h8 : pa.data.is8 <;> simp [h8] at hl <;>
    simp [present_length, pulse_length, driveRwLow_length, hl] <;> omega

/-- The delay sum of Send (R155). -/
theorem delaySum_send (pa : PinAssignment) (v : Byte) (rs : Level) :
    delaySum (send pa v rs) = if pa.n = 8 then 102 else 204 := by
  have hp : delaySum (pulse pa) = 102 := rfl
  unfold send PinAssignment.n write4 write8
  cases pa.data.is8 <;> simp [delaySum_append, delaySum, delaySum_driveRwLow, delaySum_present, hp]

end Sys2Proof.Machine
end

