-- ==== Sys2Proof/Laws/Step.lean ====
section
/-!
SUPPORT. What a step can do, said once: the three kinds of step, the kinds of a busy step, and the two outcomes of a host
operation.
-/

namespace Sys2Proof.Machine

theorem step_rst {s : State} (h : s.rst = true) : step s = .next (applyReset s) := by simp [step, h]

theorem step_busy {s : State} (hr : s.rst = false) (hb : s.busy = true) : step s = busyStep s := by simp [step, hr, hb]

theorem step_idle {s : State} (hr : s.rst = false) (hb : s.busy = false) : step s = acceptStep s := by simp [step, hr, hb]

theorem busyStep_nil {s : State} (h : s.pending = []) : busyStep s = .next (complete s) := by simp [busyStep, h]

theorem busyStep_emit {s : State} {e : Event} {ms : List Micro} (h : s.pending = .emit e :: ms) :
    busyStep s = .next (issue e { s with pending := ms }) := by simp [busyStep, h]

theorem busyStep_sendCharacter {s : State} {v : Byte} {ms : List Micro} (h : s.pending = .sendCharacter v :: ms) :
    busyStep s = .next (callMicro (fun pa => sendCharacter pa v) { s with pending := ms }) := by simp [busyStep, h]

theorem busyStep_write4 {s : State} {x : Nibble} {ms : List Micro} (h : s.pending = .write4 x :: ms) :
    busyStep s = .next (callMicro (fun pa => write4 pa x) { s with pending := ms }) := by simp [busyStep, h]

theorem acceptStep_none {s : State} (h : takePacket s.hostIn = none) : acceptStep s = .next s := by simp [acceptStep, h]

theorem acceptStep_some {s : State} {p : Packet} {rest : List Beat} (h : takePacket s.hostIn = some (p, rest)) :
    acceptStep s = runPacket p { s with hostIn := rest } := by simp [acceptStep, h]

theorem runPacket_ok {p : Packet} {i : Instr} (s : State) (h : decodePacket p = .ok i) : runPacket p s = exec i s := by
  simp [runPacket, h]

theorem runPacket_error {p : Packet} {e : DecodeError} (s : State) (h : decodePacket p = .error e) :
    runPacket p s = .next (raise (errorCode e) s) := by
  simp [runPacket, h]

/-- The two outcomes of a host operation in a state: refused with a code other than OK, or committed (registers and program),
and nothing else touched. -/
def RefusedOrAccepted (s t : State) : Prop :=
  (∃ e, e ≠ .ok ∧ e ≠ .rangeError ∧ t = raise e s) ∨ ∃ life program, t = accept life program s

theorem raise_refused {e : ResultCode} {s : State} (h : e ≠ .ok) (h' : e ≠ .rangeError) :
    RefusedOrAccepted s (raise e s) := .inl ⟨e, h, h', rfl⟩

theorem accept_accepted (life : Lifecycle) (program : List Micro) (s : State) :
    RefusedOrAccepted s (accept life program s) := .inr ⟨life, program, rfl⟩

/-- What running a host operation can do: it answers a next state, refused or committed. -/
theorem exec_host_cases {i : Instr} (hi : i.space = .hostPacket) (s : State) :
    ∃ t, exec i s = .next t ∧ RefusedOrAccepted s t := by
  obtain ⟨t, h, hc⟩ := exec_commits hi s
  refine ⟨t, h, ?_⟩
  cases hc with
  | refused e ho hr => exact raise_refused ho hr
  | construct => exact accept_accepted _ _ _
  | init => exact accept_accepted _ _ _
  | dispose => exact accept_accepted _ _ _
  | sends => exact accept_accepted _ _ _
  | dctrl => exact accept_accepted _ _ _
  | emode => exact accept_accepted _ _ _

/-- What running an LCD command byte does: SendCommand of the byte, in place. -/
theorem exec_lcd {i : Instr} (hi : i.space = .lcdCommand) (s : State) : exec i s = .next (sendLcd i s) := by
  cases i <;> first | rfl | cases hi

/-- A command byte runs in place as SendCommand of that byte, whatever the codes and whichever LCD instruction it stands for. -/
theorem busyStep_sendCommand {s : State} {v : Byte} {ms : List Micro} (h : s.pending = .sendCommand v :: ms) :
    busyStep s = .next (callMicro (fun pa => sendCommand pa v) { s with pending := ms }) := by
  simp only [busyStep, h]
  split
  · rename_i i hi
    obtain ⟨hs, hv⟩ := decodeLcdWith_some hi
    rw [exec_lcd hs, sendLcd, hv]
  · rfl

/-- What executing a packet can do: it answers a next state, refused or committed. -/
theorem runPacket_cases (p : Packet) (s : State) : ∃ t, runPacket p s = .next t ∧ RefusedOrAccepted s t := by
  cases hd : decodePacket p with
  | ok i => exact runPacket_ok s hd ▸ exec_host_cases (decodePacket_space hd) s
  | error e => exact ⟨_, runPacket_error s hd, raise_refused (by cases e <;> decide) (by cases e <;> decide)⟩

/-- What executing a packet can do, with the registers and the program it commits. -/
theorem runPacket_commits (p : Packet) (s : State) : ∃ i t, runPacket p s = .next t ∧ Commits i s t := by
  cases hd : decodePacket p with
  | ok i => exact ⟨i, runPacket_ok s hd ▸ exec_commits (decodePacket_space hd) s⟩
  | error e => exact ⟨.clear, _, runPacket_error s hd, .refused _ (by cases e <;> decide) (by cases e <;> decide)⟩

/-- What a step can do: reset; idle; take a packet and refuse or commit it; end a command; issue one event; enter one call. -/
theorem step_cases (s : State) :
    (s.rst = true ∧ step s = .next (applyReset s)) ∨
    (s.rst = false ∧ s.busy = false ∧ takePacket s.hostIn = none ∧ step s = .next s) ∨
    (∃ p rest t, s.rst = false ∧ s.busy = false ∧ takePacket s.hostIn = some (p, rest) ∧ step s = .next t ∧
      runPacket p { s with hostIn := rest } = .next t ∧ RefusedOrAccepted { s with hostIn := rest } t) ∨
    (s.rst = false ∧ s.busy = true ∧ s.pending = [] ∧ step s = .next (complete s)) ∨
    (∃ e ms, s.rst = false ∧ s.busy = true ∧ s.pending = .emit e :: ms ∧
      step s = .next (issue e { s with pending := ms })) ∨
    (∃ m ms, s.rst = false ∧ s.busy = true ∧ s.pending = m :: ms ∧ (∀ e, m ≠ .emit e) ∧
      step s = .next (callMicro (fun pa => microEvents (some pa) m) { s with pending := ms })) := by
  by_cases hr : s.rst = true
  · exact .inl ⟨hr, step_rst hr⟩
  rw [Bool.not_eq_true] at hr
  by_cases hb : s.busy = true
  · rw [step_busy hr hb]
    cases hp : s.pending with
    | nil => exact .inr (.inr (.inr (.inl ⟨hr, hb, rfl, busyStep_nil hp⟩)))
    | cons m ms =>
      cases m with
      | emit e => exact .inr (.inr (.inr (.inr (.inl ⟨e, ms, hr, hb, rfl, busyStep_emit hp⟩))))
      | sendCommand v =>
        exact .inr (.inr (.inr (.inr (.inr ⟨_, ms, hr, hb, rfl, nofun, busyStep_sendCommand hp⟩))))
      | sendCharacter v =>
        exact .inr (.inr (.inr (.inr (.inr ⟨_, ms, hr, hb, rfl, nofun, busyStep_sendCharacter hp⟩))))
      | write4 x => exact .inr (.inr (.inr (.inr (.inr ⟨_, ms, hr, hb, rfl, nofun, busyStep_write4 hp⟩))))
  · rw [Bool.not_eq_true] at hb
    rw [step_idle hr hb]
    cases ht : takePacket s.hostIn with
    | none => exact .inr (.inl ⟨hr, hb, rfl, acceptStep_none ht⟩)
    | some pr =>
      obtain ⟨t, h, ht'⟩ := runPacket_cases pr.1 { s with hostIn := pr.2 }
      exact .inr (.inr (.inl ⟨pr.1, pr.2, t, hr, hb, rfl, (acceptStep_some ht).trans h, h, ht'⟩))

/-- Steps one after the other. -/
theorem runSteps_add {a : Nat} {s t : State} (h : runSteps a s = .next t) (b : Nat) :
    runSteps (a + b) s = runSteps b t := by
  induction a generalizing s with
  | zero =>
    cases h
    rw [Nat.zero_add]
  | succ a ih =>
    rw [Nat.add_right_comm, runSteps]
    rw [runSteps] at h
    cases hs : step s with
    | next u =>
      rw [hs] at h
      exact ih h
    | fault f =>
      rw [hs] at h
      cases h
    | refused f =>
      rw [hs] at h
      cases h

end Sys2Proof.Machine
end

