-- ==== Sys2Proof/Tests/Slice0.lean ====
section
/-!
SUPPORT. Small tests: ill-formed instructions, a word written out for every constructor, one step of each instruction, and a
witness for the hypotheses of every statement that has some.
Expected values are those of 30_encoding.md and 95_test_vectors.md (V numbers), written out by hand.
-/

namespace Sys2Proof.Tests

open Sys2Proof Sys2Proof.Machine

/-! ## Well-formedness: an ill-formed instruction for each check -/

theorem test_wf_construct : Instr.wf (.construct 10 none 11 [4, 5, 6, 7, 8]) = false := by decide
theorem test_wf_construct_four : Instr.wf (.construct 10 none 11 [4, 5, 6, 7]) = true := by decide
theorem test_wf_createChar : Instr.wf (.createChar 1 [0, 0, 0, 0, 0, 0, 0]) = false := by decide
theorem test_wf_cursorShift : Instr.wf (.lcdCursorShift false true) = false := by decide
theorem test_wf_functionSet : Instr.wf (.lcdFunctionSet false true true) = false := by decide
theorem test_wf_setCgramAddr : Instr.wf (.lcdSetCgramAddr 0x09) = false := by decide

/-! ## Decoding: one word for every constructor (R81, R82, R86, R89) -/

theorem test_decode_construct :
    decodeBytes [0x01, 0x14, 0x01, 0x15, 0x16, 0, 1, 2, 3, 4, 5, 6, 7] =
      .ok (.construct 0x14 (some 0x15) 0x16 [0, 1, 2, 3, 4, 5, 6, 7]) := by rfl
theorem test_decode_construct_rw_ignored :
    decodeBytes [0x01, 0x0A, 0x00, 0x63, 0x0B, 4, 5, 6, 7] = .ok (.construct 0x0A none 0x0B [4, 5, 6, 7]) := by rfl
theorem test_decode_init : decodeBytes [0x02, 0x14, 0x04, 0x01] = .ok (.init 20 4 1) := by rfl
theorem test_decode_clear : decodeBytes [0x03] = .ok .clear := by rfl
theorem test_decode_home : decodeBytes [0x04] = .ok .home := by rfl
theorem test_decode_setCursor : decodeBytes [0x05, 0x02, 0x01] = .ok (.setCursor 2 1) := by rfl
theorem test_decode_display : decodeBytes [0x06] = .ok .display := by rfl
theorem test_decode_noDisplay : decodeBytes [0x07] = .ok .noDisplay := by rfl
theorem test_decode_cursor : decodeBytes [0x08] = .ok .cursor := by rfl
theorem test_decode_noCursor : decodeBytes [0x09] = .ok .noCursor := by rfl
theorem test_decode_blink : decodeBytes [0x0A] = .ok .blink := by rfl
theorem test_decode_noBlink : decodeBytes [0x0B] = .ok .noBlink := by rfl
theorem test_decode_scrollLeft : decodeBytes [0x0C] = .ok .scrollLeft := by rfl
theorem test_decode_scrollRight : decodeBytes [0x0D] = .ok .scrollRight := by rfl
theorem test_decode_leftToRight : decodeBytes [0x0E] = .ok .leftToRight := by rfl
theorem test_decode_rightToLeft : decodeBytes [0x0F] = .ok .rightToLeft := by rfl
theorem test_decode_autoscroll : decodeBytes [0x10] = .ok .autoscroll := by rfl
theorem test_decode_noAutoscroll : decodeBytes [0x11] = .ok .noAutoscroll := by rfl
theorem test_decode_createChar : decodeBytes [0x12, 0x09, 0x1F] = .ok (.createChar 9 [0x1F]) := by rfl
theorem test_decode_print : decodeBytes [0x13, 0x48, 0x49] = .ok (.print [0x48, 0x49]) := by rfl
theorem test_decode_dispose : decodeBytes [0x14] = .ok .dispose := by rfl
theorem test_decode_lcdClearDisplay : decodeLcd 0b00000001 = some .lcdClearDisplay := by decide
theorem test_decode_lcdReturnHome : decodeLcd 0b00000010 = some .lcdReturnHome := by decide
theorem test_decode_lcdEntryModeSet : decodeLcd 0b00000110 = some (.lcdEntryModeSet true false) := by decide
theorem test_decode_lcdDisplayControl : decodeLcd 0b00001101 = some (.lcdDisplayControl true false true) := by decide
theorem test_decode_lcdCursorShift : decodeLcd 0b00011100 = some (.lcdCursorShift true true) := by decide
theorem test_decode_lcdFunctionSet : decodeLcd 0b00110100 = some (.lcdFunctionSet true false true) := by decide
theorem test_decode_lcdSetCgramAddr : decodeLcd 0b01001000 = some (.lcdSetCgramAddr 0b001000) := by decide
theorem test_decode_lcdSetDdramAddr : decodeLcd 0b11010100 = some (.lcdSetDdramAddr 0b1010100) := by decide
/-- V15, V16, V48, V50: the decode errors. -/
theorem test_decode_errors :
    decodeBytes [0x01, 0x0A, 0x00, 0x00] = .error .formatError ∧
    decodeBytes [0x01, 0x0A, 0x02, 0x00, 0x0B, 4, 5, 6, 7] = .error .formatError ∧
    decodeBytes [0x00] = .error .illegalOpcode ∧ decodeBytes [0x15] = .error .illegalOpcode ∧
    decodeBytes [0xFF, 0x01, 0x02] = .error .illegalOpcode ∧ decodeBytes [0x02, 0x10, 0x02] = .error .formatError ∧
    decodeBytes [0x12] = .error .formatError ∧ decodeBytes [0x14, 0x00] = .error .formatError := ⟨rfl, rfl, rfl, rfl, rfl, rfl, rfl, rfl⟩
theorem test_decode_lcd_none : decodeLcd 0b00000000 = none ∧ decodeLcd 0b00100001 = none ∧ decodeLcd 0b00000011 = none := by decide
/-- R87 (a), R203. -/
theorem test_assembler :
    Instr.initTwoOperands 16 2 = .init 16 2 0 ∧ asciiBytes ['H', 'I'] = some [0x48, 0x49] ∧ asciiBytes ['\n'] = none := by
  decide
theorem test_tableWord :
    decodeTableWord 8 0x03 = some .clear ∧ decodeTableWord 8 0x02 = some (.init 0 0 0) ∧
    decodeTableWord 8 0x80 = some (.lcdSetDdramAddr 0) ∧ decodeTableWord 8 0x20 = some (.lcdFunctionSet false false false) := by
  decide

/-! ## Small states -/

/-- The assignments A4, A4W and A8W of 95_test_vectors.md. -/
def a4 : PinAssignment := ⟨10, none, 11, .four 4 5 6 7⟩
def a4w : PinAssignment := ⟨10, some 12, 11, .four 4 5 6 7⟩
def a8w : PinAssignment := ⟨20, some 21, 22, .eight 0 1 2 3 4 5 6 7⟩

/-- The registers after INIT 16,2 on A4 and after INIT 20,4 on A8W (V20, V22). -/
def regs16 : DataRegs := ⟨0x08, 0x04, 0x02, 2, #v[0x00, 0x40, 0x10, 0x50]⟩
def regs20 : DataRegs := ⟨0x18, 0x04, 0x02, 4, #v[0x00, 0x40, 0x14, 0x54]⟩

/-- An idle engine in a phase, with no latch known. -/
def idleIn (life : Lifecycle) : State := { State.reset with life := life }

/-- An engine that has just taken a packet of these bytes, as the host delivers them. -/
def withPacket (bytes : List Byte) (s : State) : State :=
  match bytes with
  | op :: args => { s with hostIn := packetBeats ⟨op, args⟩ }
  | [] => s

/-- The next state of an outcome. -/
def nextOf : Host.Outcome State Fault Refusal → State
  | .next s => s
  | .fault _ => State.reset
  | .refused _ => State.reset

/-- The state after one step. -/
def after (bytes : List Byte) (life : Lifecycle) : State := nextOf (step (withPacket bytes (idleIn life)))

/-- `N(x)` of the spec's shorthand on A4: the four data lines by their pins, and the pulse on pin 11. -/
def nib (b0 b1 b2 b3 : Bool) : List Event :=
  [.wr 4 b0, .wr 5 b1, .wr 6 b2, .wr 7 b3, .wr 11 false, .delay 1, .wr 11 true, .delay 1, .wr 11 false, .delay 100]

/-- `RS=rs N(hi) N(lo)` on A4, the two nibbles written bit 3 first. -/
def byte4 (rs h3 h2 h1 h0 l3 l2 l1 l0 : Bool) : List Event := .wr 10 rs :: (nib h0 h1 h2 h3 ++ nib l0 l1 l2 l3)

abbrev O := false
abbrev I := true

def ready4 : Lifecycle := .ready a4 regs16
def ready8w : Lifecycle := .ready a8w regs20

/-! ## One step of each instruction -/

/-- V10 and V13, V17. -/
theorem test_construct : (after [0x01, 0x0A, 0x00, 0x00, 0x0B, 4, 5, 6, 7] .unconfigured).life = .configured a4 ∧
    (after [0x01, 0x0A, 0x00, 0x00, 0x0B] .unconfigured).err = .configError ∧
    (after [0x01, 0x0A, 0x00, 0x00, 0x0B, 4, 5, 6, 7] (.configured a4)).err = .phaseError := by decide
/-- V11. -/
theorem test_construct_eight : (after [0x01, 0x14, 0x01, 0x15, 0x16, 0, 1, 2, 3, 4, 5, 6, 7] .unconfigured).life =
    .configured a8w := by decide
/-- V18, V19. -/
theorem test_dispose : (after [0x14] ready4).remaining =
    [.cfg 10 .input, .cfg 11 .input, .cfg 4 .input, .cfg 5 .input, .cfg 6 .input, .cfg 7 .input] ∧
    (after [0x14] ready4).life = .unconfigured ∧ (after [0x14] .unconfigured).err = .phaseError := by decide
/-- V20: the registers, and the trace up to the second priming nibble. -/
theorem test_init : (after [0x02, 0x10, 0x02, 0x00] (.configured a4)).life = ready4 ∧
    (after [0x02, 0x10, 0x02, 0x00] (.configured a4)).remaining.take 20 =
      [.cfg 10 .output, .cfg 11 .output, .cfg 4 .output, .cfg 5 .output, .cfg 6 .output, .cfg 7 .output, .delay 50000,
        .wr 10 O, .wr 11 O] ++ nib I I O O ++ [.delay 4500] := by decide
/-- V22 (registers), V24: the offset wraps, the tall font with one line. -/
theorem test_init_flags : (after [0x02, 0x14, 0x04, 0x00] (.configured a8w)).life = ready8w ∧
    (after [0x02, 0xC0, 0x09, 0x00] (.configured a4)).rowoff = some #v[0x00, 0x40, 0xC0, 0x00] ∧
    (after [0x02, 0x08, 0x00, 0x07] (.configured a4)).func = some 0x04 := by decide
/-- V27, V32, V49b. -/
theorem test_clear : (after [0x03] ready4).remaining = byte4 O O O O O O O O I ++ [.delay 2000] ∧
    (after [0x03, 0x00] ready4).err = .formatError ∧ (after [0x03] (.configured a4)).err = .phaseError := by decide
/-- V28. -/
theorem test_home : (after [0x04] ready4).remaining = byte4 O O O O O O O I O ++ [.delay 2000] := by decide
/-- V33c: byte 0xC5. -/
theorem test_setCursor : (after [0x05, 0x05, 0x01] ready4).remaining = byte4 O I I O O O I O I := by decide
/-- V33e, V34c, V36b, V36d. -/
theorem test_setCursor_clamp : (after [0x05, 0x00, 0x05] ready4).pending = [.sendCommand 0xC0] ∧
    (after [0x05, 0x00, 0x04] ready8w).pending = [.sendCommand 0xD4] ∧
    (after [0x05, 0xC0, 0x01] ready4).pending = [.sendCommand 0x80] ∧
    (after [0x05, 0x00, 0x00] (.ready a4 { regs16 with nlines := 0 })).err = .rowUnderflow := by decide
/-- V29. -/
theorem test_scrollLeft : (after [0x0C] ready4).remaining = byte4 O O O O I I O O O := by decide
/-- V30. -/
theorem test_scrollRight : (after [0x0D] ready4).remaining = byte4 O O O O I I I O O := by decide
/-- V37. -/
theorem test_display : (after [0x06] ready4).remaining = byte4 O O O O O I I O O ∧ (after [0x06] ready4).dctrl = some 0x04 := by
  decide
/-- V40. -/
theorem test_noDisplay : (after [0x07] ready4).pending = [.sendCommand 0x08] ∧ (after [0x07] ready4).dctrl = some 0x00 := by
  decide
/-- V38. -/
theorem test_cursor : (after [0x08] ready4).pending = [.sendCommand 0x0E] ∧ (after [0x08] ready4).dctrl = some 0x06 := by decide
/-- V38b. -/
theorem test_noCursor : (after [0x09] (.ready a4 { regs16 with dctrl := 0x06 })).pending = [.sendCommand 0x0C] ∧
    (after [0x09] (.ready a4 { regs16 with dctrl := 0x06 })).dctrl = some 0x04 := by decide
/-- V39. -/
theorem test_blink : (after [0x0A] ready4).pending = [.sendCommand 0x0D] ∧ (after [0x0A] ready4).dctrl = some 0x05 := by decide
/-- V39b. -/
theorem test_noBlink : (after [0x0B] (.ready a4 { regs16 with dctrl := 0x05 })).pending = [.sendCommand 0x0C] ∧
    (after [0x0B] (.ready a4 { regs16 with dctrl := 0x05 })).dctrl = some 0x04 := by decide
/-- V41d. -/
theorem test_leftToRight : (after [0x0E] (.ready a4 { regs16 with emode := 0x00 })).pending = [.sendCommand 0x06] ∧
    (after [0x0E] (.ready a4 { regs16 with emode := 0x00 })).emode = some 0x02 := by decide
/-- V41. -/
theorem test_rightToLeft : (after [0x0F] ready4).pending = [.sendCommand 0x04] ∧ (after [0x0F] ready4).emode = some 0x00 := by
  decide
/-- R189. -/
theorem test_autoscroll : (after [0x10] ready4).pending = [.sendCommand 0x07] ∧ (after [0x10] ready4).emode = some 0x03 := by
  decide
/-- R190. -/
theorem test_noAutoscroll : (after [0x11] (.ready a4 { regs16 with emode := 0x03 })).pending = [.sendCommand 0x06] ∧
    (after [0x11] (.ready a4 { regs16 with emode := 0x03 })).emode = some 0x02 := by decide
/-- V44: the location is masked, and the first bitmap byte follows whole. -/
theorem test_createChar : (after [0x12, 0xFF, 0xFF, 0, 0, 0, 0, 0, 0, 0x15] ready4).pending.take 2 =
    [.sendCommand 0x78, .sendCharacter 0xFF] ∧ (after [0x12, 0xFF, 0xFF, 0, 0, 0, 0, 0, 0, 0x15] ready4).pending.length = 9 := by
  decide
/-- V45. -/
theorem test_createChar_length : (after [0x12, 0x01, 0, 0, 0, 0, 0, 0, 0] ready4).err = .invalidArgument ∧
    (after [0x12, 0x01, 0x00] (.configured a4)).err = .phaseError := by decide
/-- V47: PRINT "HI". -/
theorem test_print : (after [0x13, 0x48, 0x49] ready4).remaining =
    byte4 I O I O O I O O O ++ byte4 I O I O O I O O I := by decide
/-- V47: the empty text. -/
theorem test_print_empty : (after [0x13] ready4).pending = [] ∧ (after [0x13] ready4).busy = true := by decide

/-- A busy engine on A4 that has come to a SendCommand. -/
def calling (v : Byte) : State := { idleIn ready4 with busy := true, pending := [.sendCommand v] }

/-- The trace of each LCD command byte on A4, one step into it (R89, R156, R155). -/
theorem test_lcdClearDisplay : (nextOf (step (calling 0x01))).pending = (byte4 O O O O O O O O I).map .emit := by decide
theorem test_lcdReturnHome : (nextOf (step (calling 0x02))).pending = (byte4 O O O O O O O I O).map .emit := by decide
theorem test_lcdEntryModeSet : (nextOf (step (calling 0x05))).pending = (byte4 O O O O O O I O I).map .emit := by decide
theorem test_lcdDisplayControl : (nextOf (step (calling 0x0E))).pending = (byte4 O O O O O I I I O).map .emit := by decide
theorem test_lcdCursorShift : (nextOf (step (calling 0x1C))).pending = (byte4 O O O O I I I O O).map .emit := by decide
theorem test_lcdFunctionSet : (nextOf (step (calling 0x24))).pending = (byte4 O O O I O O I O O).map .emit := by decide
theorem test_lcdSetCgramAddr : (nextOf (step (calling 0x58))).pending = (byte4 O O I O I I O O O).map .emit := by decide
theorem test_lcdSetDdramAddr : (nextOf (step (calling 0xBF))).pending = (byte4 O I O I I I I I I).map .emit := by decide

/-- V6: Send(0x41, 1) on A4W, 22 events; V7: Send(0x0C, 0) on A8W. -/
theorem test_send : send a4w 0x41 true = [.wr 10 I, .wr 12 O] ++ nib O O I O ++ nib I O O O ∧
    send a8w 0x0C false = [.wr 20 O, .wr 21 O, .wr 0 O, .wr 1 O, .wr 2 I, .wr 3 I, .wr 4 O, .wr 5 O, .wr 6 O, .wr 7 O,
      .wr 22 O, .delay 1, .wr 22 I, .delay 1, .wr 22 O, .delay 100] := by decide
/-- V4. -/
theorem test_write4 : write4 a4 0x2 = nib O I O O := by decide
/-- V5 (latched): Send(0x48, 1) on A4. -/
theorem test_latched : latched a4 [] (send a4 0x48 true) =
    [⟨some I, [some O, some O, some I, some O]⟩, ⟨some I, [some O, some O, some O, some I]⟩] := by decide
/-- R240: reset in mid-command. -/
theorem test_reset_line : (nextOf (step { calling 0x01 with rst := true })).life = .unconfigured ∧
    (nextOf (step { calling 0x01 with rst := true })).busy = false := by decide
/-- V48: an unassigned opcode. -/
theorem test_illegal_opcode : (after [0x20] ready4).err = .illegalOpcode ∧ (after [0x20] ready4).life = ready4 := by decide
/-- R36, R28: the last step of a command. -/
theorem test_complete : (nextOf (step { idleIn ready4 with busy := true, err := .phaseError })).busy = false ∧
    (nextOf (step { idleIn ready4 with busy := true, err := .phaseError })).err = .ok := by decide
/-- R51: the request of an event. -/
theorem test_request : Event.request (.cfg 10 .output) = .pin 0 10 1 ∧ Event.request (.wr 11 true) = .pin 1 11 1 ∧
    Event.request (.delay 100) = .delay 100 := by decide

/-! ## Witnesses: states and operands that meet the hypotheses of each statement, clause by clause -/

/-- An idle engine with a packet on the port. -/
def hostSends (bytes : List Byte) (life : Lifecycle) : State := withPacket bytes (idleIn life)

theorem idle_idleIn (life : Lifecycle) : Idle (idleIn life) := ⟨rfl, rfl⟩

theorem distinct_a4 : DistinctPins a4 := by unfold DistinctPins; decide
theorem distinct_a4w : DistinctPins a4w := by unfold DistinctPins; decide
theorem distinct_a8w : DistinctPins a8w := by unfold DistinctPins; decide

theorem regsOk_regs16 : RegsOk lcdCodes a4w regs16 := ⟨⟨0, by decide⟩, by decide, by decide, 16, by decide⟩
theorem fieldsOk_regs16 : FieldsOk a4w regs16 := ⟨by decide, by decide, by decide, by decide, by decide, by decide⟩

theorem witness_ResetLineTakesTheResetState : { calling 0x01 with rst := true }.rst = true := rfl

theorem witness_IdleEngineWaitsForAPacket :
    State.reset.rst = false ∧ State.reset.busy = false ∧ takePacket State.reset.hostIn = none := ⟨rfl, rfl, rfl⟩

/-- One packet for each clause: decoded, illegal, of a wrong length. -/
theorem witness_StepRunsTheDecodedPacket :
    Idle (hostSends [0x03] ready4) ∧ (hostSends [0x03] ready4).rst = false ∧
    takePacket (hostSends [0x03] ready4).hostIn = some (⟨0x03, []⟩, []) ∧ decodePacket ⟨0x03, []⟩ = .ok .clear ∧
    takePacket (hostSends [0x15] ready4).hostIn = some (⟨0x15, []⟩, []) ∧
    decodePacket ⟨0x15, []⟩ = .error .illegalOpcode ∧
    takePacket (hostSends [0x03, 0x00] ready4).hostIn = some (⟨0x03, [0x00]⟩, []) ∧
    decodePacket ⟨0x03, [0x00]⟩ = .error .formatError := ⟨⟨rfl, rfl⟩, rfl, rfl, rfl, rfl, rfl, rfl, rfl⟩

theorem witness_StepRunsTheCalledLcdCommand :
    (calling 0x01).rst = false ∧ (calling 0x01).busy = true ∧ (calling 0x01).pending = .sendCommand 0x01 :: [] ∧
    decodeLcdWith (calling 0x01).codes 0x01 = some .lcdClearDisplay := by decide

/-- The last host operation of the opcode map and the first number above it that an LCD command has. -/
theorem witness_TableWordsAreFetchedAndRun :
    decodeTableWord 8 0x14 = some .dispose ∧ Instr.dispose.space = .hostPacket ∧
    decodeTableWord 8 0x18 = some (.lcdCursorShift true false) ∧ (Instr.lcdCursorShift true false).space = .lcdCommand := by
  decide

theorem witness_BusyEngineTakesNoPacket :
    (calling 0x01).rst = false ∧ (calling 0x01).busy = true ∧ step (calling 0x01) = .next (nextOf (step (calling 0x01))) :=
  ⟨rfl, rfl, rfl⟩

/-- The first and the last opcode of the map, with a packet that fits its format and one that does not. -/
theorem witness_FormatErrorsAreTheLengthErrors :
    opcodeAssigned 0x01 = true ∧ formatFits ⟨0x01, [10, 2, 0, 11]⟩ = false ∧ formatFits ⟨0x01, [10, 1, 12, 11]⟩ = true ∧
    opcodeAssigned 0x14 = true ∧ formatFits ⟨0x14, [0]⟩ = false ∧ formatFits ⟨0x14, []⟩ = true := by decide

/-- A packet whose ignored rw byte is not 0, and an LCD byte of a record that is not the default one. -/
theorem witness_DecodeAndEncodeAgree :
    decodeBytes [0x01, 0x0A, 0x00, 0x63, 0x0B, 4, 5, 6, 7] = .ok (.construct 0x0A none 0x0B [4, 5, 6, 7]) ∧
    decodeLcdWith { lcdCodes with RETURNHOME := 0x05 } 0x05 = some (.lcdEntryModeSet false true) ∧
    (Instr.lcdReturnHome.space = .lcdCommand ∧ encodeWith { lcdCodes with RETURNHOME := 0x05 } .lcdReturnHome = [0x05]) :=
  ⟨rfl, by decide, rfl, rfl⟩

/-- The register values with every used bit set. -/
theorem witness_AssembledBytesCarryTheFields :
    (0x1C : Byte) &&& 0xE3 = 0 ∧ (0x07 : Byte) &&& 0xF8 = 0 ∧ (0x03 : Byte) &&& 0xFC = 0 := by decide

theorem witness_EventsCrossTheirPorts :
    { calling 0 with pending := [.emit (.wr 11 true)] }.pinValid = true ∧
    { calling 0 with pending := [.emit (.delay 1)] }.dlyValid = true := by decide

/-- One packet for each clause: illegal, wrong length, wrong phase, wrong argument, accepted. -/
theorem witness_FirstFailingCheckGivesTheCode :
    Idle (idleIn ready4) ∧ opcodeAssigned 0x00 = false ∧
    (opcodeAssigned 0x05 = true ∧ formatFits ⟨0x05, [0]⟩ = false) ∧
    (opcodeAssigned 0x12 = true ∧ formatFits ⟨0x12, [1, 0]⟩ = true ∧ acceptedIn (.createChar 1 [0]) .configured = false ∧
      acceptedIn (.createChar 1 [0]) (idleIn ready4).phase = true ∧
      argumentError (.createChar 1 [0]) (idleIn ready4) = some .invalidArgument) ∧
    (acceptedIn (.setCursor 0 0) (idleIn ready4).phase = true ∧ argumentError (.setCursor 0 0) (idleIn ready4) = none) :=
  ⟨⟨rfl, rfl⟩, by decide⟩

theorem witness_RefusedPacketWritesOnlyErr :
    Idle (idleIn .unconfigured) ∧
    runPacket ⟨0x03, []⟩ (idleIn .unconfigured) = .next { idleIn .unconfigured with err := .phaseError } := ⟨⟨rfl, rfl⟩, rfl⟩

/-- An accepted and a refused operation. -/
theorem witness_CommitIssuesNothing :
    Instr.clear.space = .hostPacket ∧ exec .clear (idleIn ready4) = .next (nextOf (exec .clear (idleIn ready4))) ∧
    (nextOf (exec .clear (idleIn ready4))).busy = true ∧
    exec .clear (idleIn .unconfigured) = .next (nextOf (exec .clear (idleIn .unconfigured))) ∧
    (nextOf (exec .clear (idleIn .unconfigured))).busy = false := ⟨rfl, rfl, rfl, rfl, rfl⟩

/-- The counts 3 and 9 next to the two legal ones, and the two phases that refuse. -/
theorem witness_ConstructLoadsThePinAssignment :
    (idleIn .unconfigured).life = .unconfigured ∧ Idle (idleIn .unconfigured) ∧
    [1, 2, 3].length ≠ 4 ∧ [1, 2, 3].length ≠ 8 ∧ [1, 2, 3, 4, 5, 6, 7, 8, 9].length ≠ 4 ∧
    [1, 2, 3, 4, 5, 6, 7, 8, 9].length ≠ 8 ∧
    Idle (idleIn ready4) ∧ (idleIn ready4).life ≠ .unconfigured ∧ (idleIn (.configured a4)).life ≠ .unconfigured :=
  ⟨rfl, ⟨rfl, rfl⟩, by decide, by decide, by decide, by decide, ⟨rfl, rfl⟩, by decide, by decide⟩

theorem witness_DisposeReleasesThePins :
    (idleIn (.configured a4)).life.pins = some a4 ∧ (idleIn ready8w).life.pins = some a8w ∧ Idle (idleIn .unconfigured) ∧
    (idleIn .unconfigured).life = .unconfigured := ⟨rfl, rfl, ⟨rfl, rfl⟩, rfl⟩

theorem witness_DisposeLeavesAFreshEngine : (idleIn ready4).rst = false ∧ (idleIn ready4).life.pins = some a4 := ⟨rfl, rfl⟩

/-- FUNC at lines = 1 and 2 with a tall font asked for. -/
theorem witness_InitRunsTheTenSteps :
    (idleIn (.configured a4)).life.pins = some ⟨10, none, 11, .four 4 5 6 7⟩ ∧
    (0x04 : Byte) = (if 1 < (1 : Byte).toNat then lcdCodes.LINES_2 else 0) |||
      (if (1 : Byte) ≠ 0 ∧ (1 : Byte).toNat ≤ 1 then lcdCodes.FONT_5x10 else 0) ∧
    (idleIn ready8w).life.pins = some ⟨20, some 21, 22, .eight 0 1 2 3 4 5 6 7⟩ ∧
    (0x18 : Byte) = lcdCodes.BUS_8BIT ||| (if 1 < (2 : Byte).toNat then lcdCodes.LINES_2 else 0) |||
      (if (1 : Byte) ≠ 0 ∧ (2 : Byte).toNat ≤ 1 then lcdCodes.FONT_5x10 else 0) ∧
    Idle (idleIn .unconfigured) ∧ (idleIn .unconfigured).life = .unconfigured :=
  ⟨rfl, by decide, rfl, by decide, ⟨rfl, rfl⟩, rfl⟩

theorem witness_InitLatchesItsPrimingAndFourCommands :
    DistinctPins a4 ∧ (idleIn (.configured a4)).life.pins = some a4 ∧
    Memory.level (idleIn (.configured a4)).pins a4.en ≠ some true ∧
    exec (.init 16 2 0) (idleIn (.configured a4)) = .next (nextOf (exec (.init 16 2 0) (idleIn (.configured a4)))) :=
  ⟨distinct_a4, rfl, by decide, rfl⟩

/-- READY with its registers, and a phase that is not READY: the hypotheses of the two clauses of ClearAndHomeSendAndWait,
ScrollCommandsSendOneShift, DisplayControlCommandsResendDctrl, EntryModeCommandsResendEmode and PrintSendsEachByte. -/
theorem witness_ReadyAndNotReady :
    (idleIn ready4).life = .ready a4 regs16 ∧ (idleIn ready4).phase = .ready ∧ Idle (idleIn (.configured a4)) ∧
    (idleIn (.configured a4)).phase ≠ .ready := ⟨rfl, rfl, ⟨rfl, rfl⟩, by decide⟩

/-- Row 4 clamped to row 1 of two lines; no line at all. -/
theorem witness_SetCursorSendsTheClampedAddress :
    (idleIn ready4).life = .ready a4 regs16 ∧ regs16.nlines ≠ 0 ∧ 1 < 4 ∧
    1 = min (4 : Byte).toNat (min 4 regs16.nlines.toNat - 1) ∧
    Idle (idleIn (.ready a4 { regs16 with nlines := 0 })) ∧ { regs16 with nlines := 0 }.nlines = 0 ∧
    Idle (idleIn (.configured a4)) ∧ (idleIn (.configured a4)).phase ≠ .ready :=
  ⟨rfl, by decide, by decide, by decide, ⟨rfl, rfl⟩, rfl, ⟨rfl, rfl⟩, by decide⟩

/-- Row 2 of two lines, and row 4 of four. -/
theorem witness_RowsBeyondTheEndActAsTheLastRow :
    (idleIn ready4).life = .ready a4 regs16 ∧ regs16.nlines.toNat ≤ (2 : Byte).toNat ∧ regs16.nlines ≠ 0 ∧
    regs16.nlines.toNat ≤ 4 ∧
    (idleIn ready8w).life = .ready a8w regs20 ∧ 4 ≤ (4 : Byte).toNat ∧ 4 ≤ regs20.nlines.toNat := by decide

theorem witness_FlagCommandsAreIdempotent :
    (idleIn ready4).phase = .ready ∧ exec .cursor (idleIn ready4) = .next (nextOf (exec .cursor (idleIn ready4))) ∧
    let t := nextOf (exec .cursor (idleIn ready4))
    let t' := { t with busy := false, pending := [], trace := t.trace ++ t.remaining }
    exec .cursor t' = .next (nextOf (exec .cursor t')) := ⟨rfl, rfl, rfl⟩

/-- A setter from a clear bit, and a clearer from a set one. -/
theorem witness_FlagCommandPairsAreInverse :
    (idleIn ready4).life = .ready a4 regs16 ∧ regs16.dctrl &&& (idleIn ready4).codes.CURSOR_ON = 0 ∧
    regs16.emode &&& (idleIn ready4).codes.ENTRY_LEFT = (idleIn ready4).codes.ENTRY_LEFT ∧
    let t := nextOf (exec .cursor (idleIn ready4))
    let u := nextOf (exec .rightToLeft (idleIn ready4))
    let t' := { t with busy := false, pending := [] }
    let u' := { u with busy := false, pending := [] }
    exec .cursor (idleIn ready4) = .next t ∧ exec .noCursor t' = .next (nextOf (exec .noCursor t')) ∧
    exec .rightToLeft (idleIn ready4) = .next u ∧ exec .leftToRight u' = .next (nextOf (exec .leftToRight u')) :=
  ⟨rfl, by decide, by decide, rfl, rfl, rfl, rfl⟩

/-- Bitmaps of 7 and of 9 bytes in READY, and another phase. -/
theorem witness_CreateCharSendsAddressAndBitmap :
    (idleIn ready4).life = .ready a4 regs16 ∧ Idle (idleIn ready4) ∧ (idleIn ready4).phase = .ready ∧
    [1, 2, 3, 4, 5, 6, 7].length ≠ 8 ∧ [1, 2, 3, 4, 5, 6, 7, 8, 9].length ≠ 8 ∧
    Idle (idleIn (.configured a4)) ∧ (idleIn (.configured a4)).phase ≠ .ready :=
  ⟨rfl, ⟨rfl, rfl⟩, rfl, by decide, by decide, ⟨rfl, rfl⟩, by decide⟩

theorem witness_LcdCommandsSendTheirByte : (calling 0x01).life.pins = some a4 ∧ DefaultCodes (calling 0x01) := ⟨rfl, rfl⟩

theorem witness_PulseIsSixEvents : (12 : PinId) ≠ a4w.en := by decide

theorem witness_DataBytesAndRawNibblesRunInPlace :
    let s : State := { calling 0 with pending := [.sendCharacter 0x48] }
    let s' : State := { calling 0 with pending := [.write4 0x3] }
    s.rst = false ∧ s.busy = true ∧ s.life.pins = some a4 ∧ s.pending = .sendCharacter 0x48 :: [] ∧
    s'.rst = false ∧ s'.busy = true ∧ s'.life.pins = some a4 ∧ s'.pending = .write4 0x3 :: [] :=
  ⟨rfl, rfl, rfl, rfl, rfl, rfl, rfl, rfl⟩

theorem witness_SendLatchesTheByte : DistinctPins a8w ∧ Memory.level [] a8w.en ≠ some true := ⟨distinct_a8w, by decide⟩

theorem witness_ProgramsLatchTheirBytes :
    Instr.home.space = .hostPacket ∧ exec .home (idleIn ready4) = .next (nextOf (exec .home (idleIn ready4))) ∧
    DistinctPins a4 ∧ Memory.level [(11, ⟨none, some false⟩)] a4.en = some false ∧
    ∀ u ∈ [Micro.sendCommand 0x01, .emit (.delay 2000), .sendCharacter 0x48], sendsOrWaits u = true :=
  ⟨rfl, rfl, distinct_a4, by decide, by decide⟩

theorem witness_CommandsHaveTheTabulatedEventsAndDelays :
    (idleIn ready8w).life.pins = some a8w ∧
    exec .clear (idleIn ready8w) = .next (nextOf (exec .clear (idleIn ready8w))) ∧
    (nextOf (exec .clear (idleIn ready8w))).busy = true := ⟨rfl, rfl, rfl⟩

/-- The three transitions. -/
theorem witness_PhaseChangesOnlyByTheLifecycleCommands :
    exec (.construct 10 none 11 [4, 5, 6, 7]) (idleIn .unconfigured) = .next (nextOf
      (exec (.construct 10 none 11 [4, 5, 6, 7]) (idleIn .unconfigured))) ∧
    exec .dispose (idleIn ready4) = .next (nextOf (exec .dispose (idleIn ready4))) ∧
    (nextOf (exec .clear (idleIn .unconfigured))).busy = false := ⟨rfl, rfl, rfl⟩

theorem witness_PinAssignmentIsNeverReassigned :
    (hostSends [0x02, 8, 1, 0] ready4).rst = false ∧
    step (hostSends [0x02, 8, 1, 0] ready4) = .next (nextOf (step (hostSends [0x02, 8, 1, 0] ready4))) ∧
    (hostSends [0x02, 8, 1, 0] ready4).life.pins = some a4 ∧
    (nextOf (step (hostSends [0x02, 8, 1, 0] ready4))).life.pins = some a4 := ⟨rfl, rfl, rfl, rfl⟩

theorem witness_OnlyTheListedCommandsWriteARegister :
    exec .blink (idleIn ready4) = .next (nextOf (exec .blink (idleIn ready4))) ∧ Instr.blink ≠ .dispose ∧
    (∀ rs rw en d, Instr.blink ≠ .construct rs rw en d) ∧ (∀ columns lines dotSize, Instr.blink ≠ .init columns lines dotSize) ∧
    Instr.blink ∉ [Instr.leftToRight, .rightToLeft, .autoscroll, .noAutoscroll] := ⟨rfl, by decide, nofun, nofun, by decide⟩

theorem witness_StepsIssueEventsOneByOne :
    let s : State := { calling 0 with pending := [.emit (.wr 11 true)] }
    s.rst = false ∧ step s = .next (nextOf (step s)) := ⟨rfl, rfl⟩

/-- An engine in READY in the middle of CLEAR. -/
def clearing : State := { idleIn (.ready a4w regs16) with busy := true, pending := [.sendCommand 0x01, .emit (.delay 2000)] }

theorem witness_CommandRunsToItsEnd : Invariant clearing ∧ clearing.rst = false ∧ clearing.busy = true := by
  have hv : ∀ v, .sendCommand v ∈ clearing.pending → v = 0x01 := by simp [clearing]
  refine ⟨⟨rfl, ?_, ?_, nofun, nofun, ?_, ?_, by decide⟩, rfl, rfl⟩
  · intro pa r h
    cases h
    exact regsOk_regs16
  · intro _ pa r h
    cases h
    exact fieldsOk_regs16
  · intro v h
    cases hv v h
    exact .clearDisplay
  · intro _ v h
    cases hv v h
    exact ⟨.lcdClearDisplay, rfl, rfl, rfl⟩

/-- An idle engine in READY whose trace ends with the three register bytes of INIT and whose enable and read/write are low,
with CURSOR on the host port. -/
def settled : State :=
  withPacket [0x08] { idleIn (.ready a4w regs16) with
    trace := sendCommand a4w 0x28 ++ sendCommand a4w 0x0C ++ sendCommand a4w 0x06,
    pins := [(11, ⟨some .output, some false⟩), (12, ⟨some .output, some false⟩)] }

theorem witness_EveryStepKeepsTheInvariant : Invariant settled ∧ step settled = .next (nextOf (step settled)) := by
  refine ⟨⟨by decide, ?_, ?_, fun _ => rfl, nofun, nofun, nofun, by decide⟩, rfl⟩
  · intro pa r h
    cases h
    exact regsOk_regs16
  · intro _ pa r h
    cases h
    exact fieldsOk_regs16

theorem mirror_settled : Mirror settled := by
  intro _ pa r h
  cases h
  refine ⟨⟨by decide, [], [.sendCommand 0x0C, .sendCommand 0x06], by decide, by decide⟩,
    ⟨by decide, sendCommand a4w 0x28, [.sendCommand 0x06], by decide, by decide⟩,
    ⟨by decide, sendCommand a4w 0x28 ++ sendCommand a4w 0x0C, [], by decide, by simp⟩⟩

theorem witness_EveryStepKeepsTheMirror :
    Invariant settled ∧ Mirror settled ∧ DefaultCodes settled ∧ step settled = .next (nextOf (step settled)) :=
  ⟨witness_EveryStepKeepsTheInvariant.1, mirror_settled, rfl, rfl⟩

theorem witness_EveryStepKeepsTheLinesAtRest :
    Invariant settled ∧ LinesAtRest settled ∧ DistinctPins a4w ∧ step settled = .next (nextOf (step settled)) := by
  refine ⟨witness_EveryStepKeepsTheInvariant.1, ?_, distinct_a4w, rfl⟩
  intro pa r h _
  cases h
  refine ⟨by decide, ?_⟩
  intro p hp
  cases hp
  decide

theorem witness_ReadWriteIsNeverDrivenHigh :
    Idle settled ∧ settled.life.pins = some a4w ∧ DistinctPins a4w ∧ a4w.rw = some 12 ∧
    exec .cursor settled = .next (nextOf (exec .cursor settled)) := ⟨⟨rfl, rfl⟩, rfl, distinct_a4w, rfl, rfl⟩

theorem witness_EveryByteHasItsPulses : DistinctPins a4 ∧ DistinctPins a8w := ⟨distinct_a4, distinct_a8w⟩

/-! ## Another LcdCodes record (R88) -/

/-- The codes of DISPLAY_ON and BLINK_ON exchanged. -/
def exchanged : LcdCodes := { lcdCodes with DISPLAY_ON := 0x01, BLINK_ON := 0x04 }

/-- R91, R181: DISPLAY then assembles 0x08 | 0x01. -/
theorem test_exchanged_display :
    (nextOf (step { hostSends [0x06] (.ready a4 { regs16 with dctrl := 0x00 }) with codes := exchanged })).pending =
      [.sendCommand 0x09] := by decide
/-- R156: and that byte goes out as it stands. -/
theorem test_exchanged_sends :
    (nextOf (step { calling 0x09 with codes := exchanged })).pending = (byte4 O O O O O I O O I).map .emit := by decide
/-- The byte is the command with D alone; with the default codes it is the one with B alone (R89). -/
theorem test_exchanged_decode : decodeLcdWith exchanged 0x09 = some (.lcdDisplayControl true false false) ∧
    decodeLcd 0x09 = some (.lcdDisplayControl false false true) := by decide

theorem witness_CommandBytesAreSentAsTheyStand :
    let s : State := { calling 0x09 with codes := exchanged }
    s.rst = false ∧ s.busy = true ∧ s.life.pins = some a4 ∧ s.pending = .sendCommand 0x09 :: [] := ⟨rfl, rfl, rfl, rfl⟩

/-- A host operation, an LCD command, and the reset line in mid-command. -/
theorem witness_CodesAreNeverChanged :
    let s : State := { calling 0x09 with codes := exchanged, rst := true }
    exec .dispose s = .next (nextOf (exec .dispose s)) ∧ exec .lcdReturnHome s = .next (nextOf (exec .lcdReturnHome s)) ∧
    step s = .next (nextOf (step s)) := ⟨rfl, rfl, rfl⟩

end Sys2Proof.Tests
end

/-!
PROOFS. The lifecycle operations (40_lifecycle.md): what CONSTRUCT and DISPOSE do in each phase, and the statements settled
from it.
-/

namespace Sys2Proof.Machine

/-! ## Refusal in an idle state -/

/-- A refusal in an idle state writes ERR and nothing else (60_exceptions.md R212). -/
theorem raise_idle {s : State} (h : Idle s) (e : ResultCode) : raise e s = { s with err := e } := by
  obtain ⟨hb, hp⟩ := h
  rw [raise, ← hb, ← hp]

/-! ## CONSTRUCT -/

theorem exec_construct_accepted {d : List PinId} {data : DataLines} {s : State} (rs : PinId) (rw : Option PinId) (en : PinId)
    (hl : s.life = .unconfigured) (hd : DataLines.ofList d = some data) :
    exec (.construct rs rw en d) s = .next (accept (.configured ⟨rs, rw, en, data⟩) [] s) := by
  simp [exec, execConstruct, hl, hd]

theorem exec_construct_configError {d : List PinId} {s : State} (rs : PinId) (rw : Option PinId) (en : PinId)
    (hl : s.life = .unconfigured) (hd : DataLines.ofList d = none) :
    exec (.construct rs rw en d) s = .next (raise .configError s) := by
  simp [exec, execConstruct, hl, hd]

/-- Outside UNCONFIGURED the phase check comes first, whatever the data pins. -/
theorem exec_construct_phaseError {s : State} (rs : PinId) (rw : Option PinId) (en : PinId) (d : List PinId)
    (hl : s.life ≠ .unconfigured) : exec (.construct rs rw en d) s = .next (raise .phaseError s) := by
  cases h : s.life with
  | unconfigured => exact absurd h hl
  | configured pa => simp [exec, execConstruct, h]
  | ready pa r => simp [exec, execConstruct, h]

/-! ## DISPOSE -/

theorem exec_dispose_assigned {s : State} {pa : PinAssignment} (h : s.life.pins = some pa) :
    exec .dispose s = .next (accept .unconfigured ((directions pa .input).map .emit) s) :=
  congrArg Host.Outcome.next (whenAssigned_some h)

theorem exec_dispose_phaseError {s : State} (h : s.life.pins = none) :
    exec .dispose s = .next (raise .phaseError s) :=
  congrArg Host.Outcome.next (whenAssigned_none h)

/-- The direction requests line by line: RS, RW if present, E, D[0..PA_N-1] (40_lifecycle.md R122, 41_initialization.md R134). -/
theorem directions_program (pa : PinAssignment) (d : Dir) :
    (directions pa d).map Micro.emit =
      .emit (.cfg pa.rs d) :: (pa.rw.toList.map fun p => .emit (.cfg p d)) ++
        .emit (.cfg pa.en d) :: pa.data.toList.map fun p => .emit (.cfg p d) := by
  simp [directions, PinAssignment.owned, Function.comp_def]

/-! ## The statements -/

/-- Settles O20, by the three outcomes of CONSTRUCT: accepted, wrong count, wrong phase. -/
theorem constructLoadsThePinAssignment : Obligations.ConstructLoadsThePinAssignment := by
  intro rs rw en s
  refine ⟨fun hl => ⟨?four, ?eight⟩, ?count, ?phase⟩
  case four =>
    intro d0 d1 d2 d3
    exact exec_construct_accepted rs rw en hl rfl
  case eight =>
    intro d0 d1 d2 d3 d4 d5 d6 d7
    exact exec_construct_accepted rs rw en hl rfl
  case count =>
    intro d hi hl h4 h8
    rw [exec_construct_configError rs rw en hl (ofList_none h4 h8), raise_idle hi]
  case phase =>
    intro d hi hl
    rw [exec_construct_phaseError rs rw en d hl, raise_idle hi]

/-- Settles O21, by the two phase outcomes of DISPOSE and the order of the direction requests. -/
theorem disposeReleasesThePins : Obligations.DisposeReleasesThePins := by
  intro s
  refine ⟨?assigned, ?unconfigured⟩
  case assigned =>
    intro pa h
    rw [exec_dispose_assigned h, directions_program]
    rfl
  case unconfigured =>
    intro hi hl
    have hp : s.life.pins = none := by rw [hl, pins_unconfigured]
    rw [exec_dispose_phaseError hp, raise_idle hi]

end Sys2Proof.Machine

/-!
PROOFS. The transfer primitives (42_transfer_primitives.md): what Present, Pulse, Write4, Write8 and Send emit line by line,
and the statements settled from it.
-/

namespace Sys2Proof.Machine

/-! ## Present -/

theorem present_four {w : Nat} (d0 d1 d2 d3 : PinId) (x : BitVec w) : present [d0, d1, d2, d3] x =
    [.wr d0 (x.getLsbD 0), .wr d1 (x.getLsbD 1), .wr d2 (x.getLsbD 2), .wr d3 (x.getLsbD 3)] := rfl

theorem present_eight {w : Nat} (d0 d1 d2 d3 d4 d5 d6 d7 : PinId) (x : BitVec w) :
    present [d0, d1, d2, d3, d4, d5, d6, d7] x =
      [.wr d0 (x.getLsbD 0), .wr d1 (x.getLsbD 1), .wr d2 (x.getLsbD 2), .wr d3 (x.getLsbD 3),
        .wr d4 (x.getLsbD 4), .wr d5 (x.getLsbD 5), .wr d6 (x.getLsbD 6), .wr d7 (x.getLsbD 7)] := rfl

/-! ## Pulse -/

/-- The pulse with the timing constants of R152 as numbers. -/
theorem pulse_events (pa : PinAssignment) :
    pulse pa = [.wr pa.en false, .delay 1, .wr pa.en true, .delay 1, .wr pa.en false, .delay 100] := rfl

theorem delaySum_pulse (pa : PinAssignment) : delaySum (pulse pa) = 102 := rfl

/-- The levels `writesTo` lists are those of the level writes in the event list. -/
theorem mem_writesTo {p : PinId} {l : Level} {es : List Event} : l ∈ writesTo p es ↔ Event.wr p l ∈ es := by
  induction es with
  | nil => simp [writesTo]
  | cons e es ih =>
    cases e with
    | cfg q d => simp [writesTo, ih]
    | delay n => simp [writesTo, ih]
    | wr q k =>
      by_cases hq : q = p
      · simp [writesTo, ih, hq]
      · simp [writesTo, ih, hq, Ne.symm hq]

theorem eq_en_of_mem_pulse {pa : PinAssignment} {p : PinId} {l : Level} (h : Event.wr p l ∈ pulse pa) : p = pa.en := by
  simp only [pulse_events, List.mem_cons, Event.wr.injEq, reduceCtorEq, List.not_mem_nil, false_or, or_false] at h
  obtain ⟨hp, -⟩ | ⟨hp, -⟩ | ⟨hp, -⟩ := h <;> exact hp

theorem writesTo_pulse_of_ne {pa : PinAssignment} {p : PinId} (h : p ≠ pa.en) : writesTo p (pulse pa) = [] :=
  List.eq_nil_iff_forall_not_mem.2 fun _ hl => h (eq_en_of_mem_pulse (mem_writesTo.1 hl))

/-! ## Write4, Write8 and Send -/

theorem highNibble_getLsbD {i : Nat} (v : Byte) (h : i < 4) : (highNibble v).getLsbD i = v.getLsbD (4 + i) := by
  simp [highNibble, h]

theorem lowNibble_getLsbD {i : Nat} (v : Byte) (h : i < 4) : (lowNibble v).getLsbD i = v.getLsbD i := by
  simp [lowNibble, h]

theorem present_highNibble (d0 d1 d2 d3 : PinId) (v : Byte) : present [d0, d1, d2, d3] (highNibble v) =
    [.wr d0 (v.getLsbD 4), .wr d1 (v.getLsbD 5), .wr d2 (v.getLsbD 6), .wr d3 (v.getLsbD 7)] := by
  simp only [present_four, highNibble_getLsbD, Nat.reduceLT, Nat.reduceAdd]

theorem present_lowNibble (d0 d1 d2 d3 : PinId) (v : Byte) : present [d0, d1, d2, d3] (lowNibble v) =
    [.wr d0 (v.getLsbD 0), .wr d1 (v.getLsbD 1), .wr d2 (v.getLsbD 2), .wr d3 (v.getLsbD 3)] := by
  simp only [present_four, lowNibble_getLsbD, Nat.reduceLT]

/-- The read/write line is written low when it is present, and no event stands for it otherwise (R155). -/
theorem driveRwLow_eq_map (pa : PinAssignment) : driveRwLow pa = pa.rw.toList.map fun p => .wr p false := by
  unfold driveRwLow
  cases pa.rw <;> rfl

section Widths

variable {d0 d1 d2 d3 d4 d5 d6 d7 : PinId} {pa : PinAssignment}

theorem write4_four (h : pa.data = .four d0 d1 d2 d3) (x : Nibble) :
    write4 pa x = present [d0, d1, d2, d3] x ++ pulse pa := by
  rw [write4, h]
  rfl

theorem write8_eight (h : pa.data = .eight d0 d1 d2 d3 d4 d5 d6 d7) (x : Byte) :
    write8 pa x = present [d0, d1, d2, d3, d4, d5, d6, d7] x ++ pulse pa := by
  rw [write8, h]
  rfl

/-- On 4 lines a byte is two transfers, high nibble first. -/
theorem send_four (h : pa.data = .four d0 d1 d2 d3) (v : Byte) (rs : Level) :
    send pa v rs = .wr pa.rs rs :: (driveRwLow pa ++ (write4 pa (highNibble v) ++ write4 pa (lowNibble v))) := by
  simp [send, h, DataLines.is8]

/-- On 8 lines a byte is one transfer. -/
theorem send_eight (h : pa.data = .eight d0 d1 d2 d3 d4 d5 d6 d7) (v : Byte) (rs : Level) :
    send pa v rs = .wr pa.rs rs :: (driveRwLow pa ++ write8 pa v) := by
  simp [send, h, DataLines.is8]

end Widths

/-! ## The statements -/

/-- Settles O37, by the events of Present on the lines of each width. -/
theorem presentWritesEveryBitInOrder : Obligations.PresentWritesEveryBitInOrder :=
  ⟨present_four, present_eight⟩

/-- Settles O38, by the events of the pulse, of which the writes are all to enable. -/
theorem pulseIsSixEvents : Obligations.PulseIsSixEvents :=
  fun pa => ⟨pulse_events pa, delaySum_pulse pa, fun _ => writesTo_pulse_of_ne⟩

/-- Settles O39, by the transfers of Send at each width, each a Present of the value's bits and a pulse. -/
theorem sendFramesAByte : Obligations.SendFramesAByte := by
  intro rs en d0 d1 d2 d3 d4 d5 d6 d7 rw v level
  refine ⟨?four, ?eight, ?callers⟩
  case four =>
    rw [send_four rfl, driveRwLow_eq_map, write4_four rfl, write4_four rfl, present_highNibble, present_lowNibble]
    simp
  case eight =>
    rw [send_eight rfl, driveRwLow_eq_map, write8_eight rfl, present_eight]
    simp
  case callers =>
    exact fun pa => ⟨rfl, rfl⟩

end Sys2Proof.Machine

/-!
PROOFS. The display commands (43_display_commands.md): what a command of READY does in READY and outside it, the row clamp,
and the statements of CLEAR, HOME and SETCURSOR settled from them.
-/

namespace Sys2Proof.Machine

/-! ## Commands of READY that write no register -/

/-- In READY such a command starts its program and writes no register (43_display_commands.md R170). -/
theorem runReady_starts_program {program : PinAssignment → DataRegs → List Micro} {s : State} {pa : PinAssignment}
    {r : DataRegs} (hl : s.life = .ready pa r) :
    runReady program s = { s with busy := true, pending := program pa r } := by
  rw [runReady_ready hl, accept]

theorem runReady_phaseError {program : PinAssignment → DataRegs → List Micro} {s : State} (hi : Idle s)
    (hp : s.phase ≠ .ready) : runReady program s = { s with err := .phaseError } := by
  rw [runReady_other hp, raise_idle hi]

/-! ## CLEAR and HOME -/

/-- CLEAR with the delay count of R171 as a number. -/
theorem exec_clear (s : State) : exec .clear s =
    .next (runReady (fun _ _ => [.sendCommand s.codes.CLEARDISPLAY, .emit (.delay 2000)]) s) := rfl

/-- HOME with the delay count of R172 as a number. -/
theorem exec_home (s : State) : exec .home s =
    .next (runReady (fun _ _ => [.sendCommand s.codes.RETURNHOME, .emit (.delay 2000)]) s) := rfl

/-! ## SETCURSOR -/

theorem clampRow_zero (row : Byte) : clampRow 0 row = none := rfl

/-- With a line count other than 0 the clamp has a row of the table, min(row, min(4, NLINES) - 1) (R173, R176). -/
theorem clampRow_of_ne_zero {nlines row : Byte} {k : Nat} (hn : nlines ≠ 0) (hk : k < 4)
    (hmin : k = min row.toNat (min 4 nlines.toNat - 1)) : clampRow nlines row = some ⟨k, hk⟩ := by
  have hn' : nlines.toNat ≠ 0 := fun h => hn (BitVec.eq_of_toNat_eq h)
  subst hmin
  exact dif_neg hn'

section SetCursor

variable {s : State} {pa : PinAssignment} {r : DataRegs} {row : Byte}

theorem exec_setCursor_sends {k : Fin 4} (col : Byte) (hl : s.life = .ready pa r) (hk : clampRow r.nlines row = some k) :
    exec (.setCursor col row) s = .next (accept s.life [.sendCommand (setDdramByte s.codes col r.rowoff[k])] s) := by
  rw [exec, execSetCursor, whenReady_ready hl, hk, hl]

theorem exec_setCursor_rowUnderflow (col : Byte) (hl : s.life = .ready pa r) (hk : clampRow r.nlines row = none) :
    exec (.setCursor col row) s = .next (raise .rowUnderflow s) := by
  rw [exec, execSetCursor, whenReady_ready hl, hk]

theorem exec_setCursor_phaseError (col row : Byte) (hp : s.phase ≠ .ready) :
    exec (.setCursor col row) s = .next (raise .phaseError s) := by
  rw [exec, execSetCursor, whenReady_other hp]

end SetCursor

/-! ## The statements -/

/-- Settles O26, by the two outcomes of a command of READY. -/
theorem clearAndHomeSendAndWait : Obligations.ClearAndHomeSendAndWait := by
  intro s
  rw [exec_clear, exec_home]
  refine ⟨?ready, ?phase⟩
  case ready =>
    intro pa r hl
    rw [runReady_starts_program hl, runReady_starts_program hl]
    exact ⟨rfl, rfl⟩
  case phase =>
    intro hi hp
    rw [runReady_phaseError hi hp, runReady_phaseError hi hp]
    exact ⟨rfl, rfl⟩

/-- Settles O27, by the three outcomes of SETCURSOR: a clamped row, no row to clamp to, wrong phase. -/
theorem setCursorSendsTheClampedAddress : Obligations.SetCursorSendsTheClampedAddress := by
  intro col row s
  refine ⟨?sends, ?noLines, ?phase⟩
  case sends =>
    intro pa r k hl hn hk hmin
    rw [exec_setCursor_sends col hl (clampRow_of_ne_zero hn hk hmin)]
    rfl
  case noLines =>
    intro pa r hi hl hn
    have hk : clampRow r.nlines row = none := by rw [hn, clampRow_zero]
    rw [exec_setCursor_rowUnderflow col hl hk, raise_idle hi]
  case phase =>
    intro hi hp
    rw [exec_setCursor_phaseError col row hp, raise_idle hi]

end Sys2Proof.Machine

/-!
PROOFS. The flag commands (44_flag_commands.md): which update each command is, what an update of DCTRL or EMODE does in READY
and outside it (R180), and the statements settled from it.
-/

namespace Sys2Proof.Machine

/-! ## The two groups -/

/-- Each display-control command is its update of DCTRL (R181 to R186). -/
theorem exec_of_mem_dctrlUpdates {i : Instr} {f : Byte → Byte} {s : State} (h : (i, f) ∈ dctrlUpdates s.codes) :
    exec i s = .next (updateDctrl f s) := by
  simp only [dctrlUpdates, List.mem_cons, List.not_mem_nil, or_false, Prod.mk.injEq] at h
  obtain ⟨rfl, rfl⟩ | ⟨rfl, rfl⟩ | ⟨rfl, rfl⟩ | ⟨rfl, rfl⟩ | ⟨rfl, rfl⟩ | ⟨rfl, rfl⟩ := h <;> rfl

/-- Each entry-mode command is its update of EMODE (R187 to R190). -/
theorem exec_of_mem_emodeUpdates {i : Instr} {f : Byte → Byte} {s : State} (h : (i, f) ∈ emodeUpdates s.codes) :
    exec i s = .next (updateEmode f s) := by
  simp only [emodeUpdates, List.mem_cons, List.not_mem_nil, or_false, Prod.mk.injEq] at h
  obtain ⟨rfl, rfl⟩ | ⟨rfl, rfl⟩ | ⟨rfl, rfl⟩ | ⟨rfl, rfl⟩ := h <;> rfl

theorem dctrlUpdates_commands (c : LcdCodes) :
    (dctrlUpdates c).map Prod.fst = [.display, .noDisplay, .cursor, .noCursor, .blink, .noBlink] := rfl

theorem emodeUpdates_commands (c : LcdCodes) :
    (emodeUpdates c).map Prod.fst = [.leftToRight, .rightToLeft, .autoscroll, .noAutoscroll] := rfl

/-! ## An update in READY and outside it -/

section Update

variable {f : Byte → Byte} {s : State} {pa : PinAssignment} {r : DataRegs}

/-- In READY the new DCTRL is written and sent in full. -/
theorem updateDctrl_ready (hl : s.life = .ready pa r) : updateDctrl f s = { s with
    life := .ready pa { r with dctrl := f r.dctrl }, busy := true,
    pending := [.sendCommand (s.codes.DISPLAYCONTROL ||| f r.dctrl)] } :=
  whenReady_ready hl

theorem updateDctrl_phaseError (hi : Idle s) (hp : s.phase ≠ .ready) :
    updateDctrl f s = { s with err := .phaseError } := by
  rw [updateDctrl, whenReady_other hp, raise_idle hi]

/-- In READY the new EMODE is written and sent in full. -/
theorem updateEmode_ready (hl : s.life = .ready pa r) : updateEmode f s = { s with
    life := .ready pa { r with emode := f r.emode }, busy := true,
    pending := [.sendCommand (s.codes.ENTRYMODESET ||| f r.emode)] } :=
  whenReady_ready hl

theorem updateEmode_phaseError (hi : Idle s) (hp : s.phase ≠ .ready) :
    updateEmode f s = { s with err := .phaseError } := by
  rw [updateEmode, whenReady_other hp, raise_idle hi]

end Update

/-! ## The statements -/

/-- Settles O30, by the two outcomes of an update of DCTRL, for each command of the group. -/
theorem displayControlCommandsResendDctrl : Obligations.DisplayControlCommandsResendDctrl := by
  intro s
  refine ⟨?ready, ?phase⟩
  case ready =>
    intro pa r hl commit
    have resends : ∀ u ∈ dctrlUpdates s.codes, exec u.1 s = commit (u.2 r.dctrl) := by
      intro u hu
      rw [exec_of_mem_dctrlUpdates hu, updateDctrl_ready hl]
    simpa [dctrlUpdates, setFlag, clearFlag] using resends
  case phase =>
    intro i hmem hi hp
    rw [← dctrlUpdates_commands s.codes] at hmem
    obtain ⟨u, hu, rfl⟩ := List.mem_map.1 hmem
    rw [exec_of_mem_dctrlUpdates hu, updateDctrl_phaseError hi hp]

/-- Settles O31, by the two outcomes of an update of EMODE, for each command of the group. -/
theorem entryModeCommandsResendEmode : Obligations.EntryModeCommandsResendEmode := by
  intro s
  refine ⟨?ready, ?phase⟩
  case ready =>
    intro pa r hl commit
    have resends : ∀ u ∈ emodeUpdates s.codes, exec u.1 s = commit (u.2 r.emode) := by
      intro u hu
      rw [exec_of_mem_emodeUpdates hu, updateEmode_ready hl]
    simpa [emodeUpdates, setFlag, clearFlag] using resends
  case phase =>
    intro i hmem hi hp
    rw [← emodeUpdates_commands s.codes] at hmem
    obtain ⟨u, hu, rfl⟩ := List.mem_map.1 hmem
    rw [exec_of_mem_emodeUpdates hu, updateEmode_phaseError hi hp]

end Sys2Proof.Machine

/-!
PROOFS. The data commands (45_data_commands.md): PRINT as a command of READY, and its statement settled from the two outcomes
of such a command.
-/

namespace Sys2Proof.Machine

/-- In READY a Pin Assignment and the data registers are held (10_state.md R31). -/
theorem exists_life_eq_ready {s : State} (h : s.phase = .ready) : ∃ pa r, s.life = .ready pa r := by
  rw [State.phase] at h
  cases hl : s.life with
  | unconfigured => rw [hl, phase_unconfigured] at h; contradiction
  | configured pa => rw [hl, phase_configured] at h; contradiction
  | ready pa r => exact ⟨pa, r, rfl⟩

/-- PRINT is a command of READY that writes no register (45_data_commands.md R202). -/
theorem exec_print (text : List Byte) (s : State) :
    exec (.print text) s = .next (runReady (fun _ _ => text.map .sendCharacter) s) := rfl

/-- Settles O35, by the two outcomes of a command of READY. -/
theorem printSendsEachByte : Obligations.PrintSendsEachByte := by
  intro text s
  rw [exec_print]
  refine ⟨?ready, ?phase⟩
  case ready =>
    intro hp
    obtain ⟨pa, r, hl⟩ := exists_life_eq_ready hp
    rw [runReady_starts_program hl]
  case phase =>
    intro hi hp
    rw [runReady_phaseError hi hp]

end Sys2Proof.Machine

/-!
PROOFS. The checks of a packet and their result codes (60_exceptions.md): what a decoded packet, a refused one and an accepted
one leave of an idle state, and the statements settled from it.
-/

namespace Sys2Proof.Machine

/-! ## The length check of each format (30_encoding.md R83 (2)) -/

/-- What a decoder answers when its length check came out as `fits`: an instruction, or FormatError. -/
def ChecksFormat (fits : Bool) (r : Except DecodeError Instr) : Prop :=
  (fits = false → r = .error .formatError) ∧ (fits = true → ∃ i, r = .ok i)

theorem checksFormat_ok (i : Instr) : ChecksFormat true (.ok i) := ⟨nofun, fun _ => ⟨i, rfl⟩⟩

theorem checksFormat_error : ChecksFormat false (.error .formatError) := ⟨fun _ => rfl, nofun⟩

theorem formatZ_checks (i : Instr) : (args : List Byte) → ChecksFormat (args.length == 0) (formatZ i args)
  | [] => checksFormat_ok i
  | _ :: _ => checksFormat_error

theorem formatI_checks : (args : List Byte) → ChecksFormat (args.length == 3) (formatI args)
  | [] | [_] | [_, _] | _ :: _ :: _ :: _ :: _ => checksFormat_error
  | [_, _, _] => checksFormat_ok _

theorem formatS_checks : (args : List Byte) → ChecksFormat (args.length == 2) (formatS args)
  | [] | [_] | _ :: _ :: _ :: _ => checksFormat_error
  | [_, _] => checksFormat_ok _

theorem formatG_checks : (args : List Byte) → ChecksFormat (decide (1 ≤ args.length)) (formatG args)
  | [] => checksFormat_error
  | location :: bitmap => by simpa [formatG] using checksFormat_ok (.createChar location bitmap)

theorem formatK_checks : (args : List Byte) →
    ChecksFormat (decide (4 ≤ args.length) && (args[1]? == some 0x00 || args[1]? == some 0x01)) (formatK args)
  | [] | [_] | [_, _] | [_, _, _] => checksFormat_error
  | rs :: rwen :: rw :: en :: d => by
    by_cases h0 : rwen = 0x00#8
    · simpa [formatK, h0] using checksFormat_ok _
    by_cases h1 : rwen = 0x01#8
    · simpa [formatK, h1] using checksFormat_ok _
    · simpa [formatK, h0, h1, beq_false_of_ne] using checksFormat_error

/-- On an assigned opcode the decoder makes the length check of the opcode's format. -/
theorem decodePacket_checks {p : Packet} (h : opcodeAssigned p.op = true) : ChecksFormat (formatFits p) (decodePacket p) := by
  unfold decodePacket
  split
  case h_1 hop => simpa [formatFits, hop] using formatK_checks p.args
  case h_2 hop => simpa [formatFits, hop] using formatI_checks p.args
  case h_5 hop => simpa [formatFits, hop] using formatS_checks p.args
  case h_18 hop => simpa [formatFits, hop] using formatG_checks p.args
  case h_19 hop => simpa [formatFits, hop, formatP] using checksFormat_ok (.print p.args)
  case h_21 =>
    have range : 1 ≤ p.op.toNat ∧ p.op.toNat ≤ 20 := by simpa [opcodeAssigned] using h
    grind
  all_goals
    rename_i hop
    simpa [formatFits, hop] using formatZ_checks _ p.args

theorem decodePacket_unassigned {p : Packet} (h : opcodeAssigned p.op = false) : decodePacket p = .error .illegalOpcode := by
  unfold decodePacket
  split
  case h_21 => rfl
  all_goals
    rename_i hop
    simp [opcodeAssigned, hop] at h

/-! ## The phase check and the argument check (60_exceptions.md R215, R216) -/

/-- The code of the first check of a decoded packet that fails: the phase check, then the argument check. -/
def firstFailure (i : Instr) (s : State) : Option ResultCode :=
  if acceptedIn i s.phase then argumentError i s else some .phaseError

theorem firstFailure_of_accepted {i : Instr} {s : State} (h : acceptedIn i s.phase = true) :
    firstFailure i s = argumentError i s := by
  rw [firstFailure, if_pos h]

theorem firstFailure_of_not_accepted {i : Instr} {s : State} (h : acceptedIn i s.phase = false) :
    firstFailure i s = some .phaseError := by
  rw [firstFailure, h, if_neg Bool.false_ne_true]

/-- Refused with the code of a failed check, or committed when none failed. -/
def Answers : Option ResultCode → State → State → Prop
  | some e, s, t => t = raise e s
  | none, s, t => ∃ life program, t = accept life program s

theorem answers_accept (life : Lifecycle) (program : List Micro) (s : State) : Answers none s (accept life program s) :=
  ⟨life, program, rfl⟩

/-- A command of READY is refused outside READY, and makes its argument check in READY. -/
theorem answers_whenReady {f : PinAssignment → DataRegs → State → State} {s : State} {arg : Option ResultCode}
    (h : ∀ pa r, s.life = .ready pa r → Answers arg s (f pa r s)) :
    Answers (if s.phase == .ready then arg else some .phaseError) s (whenReady f s) := by
  rcases whenReady_cases f s with ⟨pa, r, hl, hf⟩ | ⟨hp, hf⟩
  · simpa [State.phase, hl, hf] using h pa r hl
  · simp [hp, hf, Answers]

/-- A command of CONFIGURED and READY that accepts every Pin Assignment is refused in UNCONFIGURED only. -/
theorem answers_whenAssigned {f : PinAssignment → State → State} {s : State} (h : ∀ pa, Answers none s (f pa s)) :
    Answers (if s.phase == .configured || s.phase == .ready then none else some .phaseError) s (whenAssigned f s) := by
  cases hl : s.life with
  | unconfigured => simp [State.phase, hl, whenAssigned, Answers]
  | configured pa => simpa [State.phase, hl, whenAssigned] using h pa
  | ready pa r => simpa [State.phase, hl, whenAssigned] using h pa

/-- A command of READY without an argument check: READY alone decides. -/
theorem answers_whenReady_accept (life : PinAssignment → DataRegs → State → Lifecycle)
    (program : PinAssignment → DataRegs → State → List Micro) (s : State) :
    Answers (if s.phase == .ready then none else some .phaseError) s
      (whenReady (fun pa r s => accept (life pa r s) (program pa r s) s) s) :=
  answers_whenReady fun _ _ _ => answers_accept _ _ s

theorem construct_answers (rs : PinId) (rw : Option PinId) (en : PinId) (d : List PinId) (s : State) :
    ∃ t, exec (.construct rs rw en d) s = .next t ∧ Answers (firstFailure (.construct rs rw en d) s) s t := by
  by_cases hl : s.life = .unconfigured
  · by_cases hd : d.length = 4 ∨ d.length = 8
    · obtain ⟨data, hdata, -⟩ := ofList_isSome hd
      refine ⟨_, exec_construct_accepted rs rw en hl hdata, ?_⟩
      simpa [firstFailure, acceptedIn, argumentError, State.phase, hl, hd] using answers_accept _ _ s
    · have hnone : DataLines.ofList d = none := ofList_none (fun h => hd (.inl h)) fun h => hd (.inr h)
      refine ⟨_, exec_construct_configError rs rw en hl hnone, ?_⟩
      simp [firstFailure, acceptedIn, argumentError, State.phase, hl, hd, Answers]
  · refine ⟨_, exec_construct_phaseError rs rw en d hl, ?_⟩
    cases hs : s.life with
    | unconfigured => exact absurd hs hl
    | configured pa => simp [firstFailure, acceptedIn, State.phase, hs, Answers]
    | ready pa r => simp [firstFailure, acceptedIn, State.phase, hs, Answers]

theorem setCursor_answers (col row : Byte) (s : State) :
    ∃ t, exec (.setCursor col row) s = .next t ∧ Answers (firstFailure (.setCursor col row) s) s t := by
  by_cases hp : s.phase = .ready
  · obtain ⟨pa, r, hl⟩ := exists_life_eq_ready hp
    by_cases hn : r.nlines = 0#8
    · have hk : clampRow r.nlines row = none := by rw [hn]; exact clampRow_zero row
      refine ⟨_, exec_setCursor_rowUnderflow col hl hk, ?_⟩
      simp [firstFailure, acceptedIn, argumentError, State.phase, State.nlines, hl, hn, Answers]
    · refine ⟨_, exec_setCursor_sends col hl (clampRow_of_ne_zero hn (by omega) rfl), ?_⟩
      simpa [firstFailure, acceptedIn, argumentError, State.phase, State.nlines, hl, hn] using answers_accept _ _ s
  · refine ⟨_, exec_setCursor_phaseError col row hp, ?_⟩
    simp [firstFailure, acceptedIn, hp, Answers]

/-- Running a host operation makes the phase check, then the argument check, and the first that fails gives the code. -/
theorem exec_answers {i : Instr} (hi : i.space = .hostPacket) (s : State) :
    ∃ t, exec i s = .next t ∧ Answers (firstFailure i s) s t := by
  cases i with
  | construct rs rw en d => exact construct_answers rs rw en d s
  | init columns lines dotSize => exact ⟨_, rfl, answers_whenAssigned fun _ => answers_accept _ _ s⟩
  | dispose => exact ⟨_, rfl, answers_whenAssigned fun _ => answers_accept _ _ s⟩
  | setCursor col row => exact setCursor_answers col row s
  | createChar location bitmap =>
    refine ⟨_, rfl, answers_whenReady fun pa r _ => ?_⟩
    by_cases hb : bitmap.length = 8
    · simpa [argumentError, hb] using answers_accept _ _ s
    · simp [argumentError, hb, Answers]
  | clear => exact ⟨_, rfl, answers_whenReady_accept _ _ s⟩
  | home => exact ⟨_, rfl, answers_whenReady_accept _ _ s⟩
  | scrollLeft => exact ⟨_, rfl, answers_whenReady_accept _ _ s⟩
  | scrollRight => exact ⟨_, rfl, answers_whenReady_accept _ _ s⟩
  | print text => exact ⟨_, rfl, answers_whenReady_accept _ _ s⟩
  | display => exact ⟨_, rfl, answers_whenReady_accept _ _ s⟩
  | noDisplay => exact ⟨_, rfl, answers_whenReady_accept _ _ s⟩
  | cursor => exact ⟨_, rfl, answers_whenReady_accept _ _ s⟩
  | noCursor => exact ⟨_, rfl, answers_whenReady_accept _ _ s⟩
  | blink => exact ⟨_, rfl, answers_whenReady_accept _ _ s⟩
  | noBlink => exact ⟨_, rfl, answers_whenReady_accept _ _ s⟩
  | leftToRight => exact ⟨_, rfl, answers_whenReady_accept _ _ s⟩
  | rightToLeft => exact ⟨_, rfl, answers_whenReady_accept _ _ s⟩
  | autoscroll => exact ⟨_, rfl, answers_whenReady_accept _ _ s⟩
  | noAutoscroll => exact ⟨_, rfl, answers_whenReady_accept _ _ s⟩
  | _ => cases hi

/-! ## The statements -/

/-- Settles O17, by the decoder's checks and then, for a decoded packet, by the first of the other two checks that fails. -/
theorem firstFailingCheckGivesTheCode : Obligations.FirstFailingCheckGivesTheCode := by
  intro p s hi
  refine ⟨?opcode, ?format, ?decoded⟩
  case opcode =>
    intro hop
    rw [runPacket_error s (decodePacket_unassigned hop), raise_idle hi, errorCode]
  case format =>
    intro hop hfit
    rw [runPacket_error s ((decodePacket_checks hop).1 hfit), raise_idle hi, errorCode]
  case decoded =>
    intro hop hfit
    obtain ⟨i, hd⟩ := (decodePacket_checks hop).2 hfit
    obtain ⟨t, ht, hanswer⟩ := exec_answers (decodePacket_space hd) s
    rw [runPacket_ok s hd, ht]
    refine ⟨i, hd, ?phase, ?argument, ?accepted⟩
    case phase =>
      intro hph
      rw [firstFailure_of_not_accepted hph] at hanswer
      obtain rfl : t = raise .phaseError s := hanswer
      rw [raise_idle hi]
    case argument =>
      intro e hph harg
      rw [firstFailure_of_accepted hph, harg] at hanswer
      obtain rfl : t = raise e s := hanswer
      rw [raise_idle hi]
    case accepted =>
      intro hph harg
      rw [firstFailure_of_accepted hph, harg] at hanswer
      obtain ⟨life, program, rfl⟩ := hanswer
      exact ⟨life, program, rfl⟩

/-- Settles O18, by the two outcomes of a packet: a committed one has BUSY = 1, and a refusal of an idle state writes ERR. -/
theorem refusedPacketWritesOnlyErr : Obligations.RefusedPacketWritesOnlyErr := by
  intro p s t hi ht hb
  obtain ⟨u, hu, houtcome⟩ := runPacket_cases p s
  cases hu.symm.trans ht
  rcases houtcome with ⟨e, hok, hrange, rfl⟩ | ⟨life, program, rfl⟩
  · exact ⟨hok, hrange, raise_idle hi e⟩
  · cases hb

/-- Settles O19, by what the two outcomes of a host operation, a refusal and a commit, leave of each field. -/
theorem commitIssuesNothing : Obligations.CommitIssuesNothing := by
  intro i s t hi ht
  obtain ⟨u, hu, houtcome⟩ := exec_host_cases hi s
  cases hu.symm.trans ht
  rcases houtcome with ⟨e, -, -, rfl⟩ | ⟨life, program, rfl⟩
  · exact ⟨rfl, rfl, rfl, rfl, nofun, fun _ => ⟨rfl, rfl⟩⟩
  · exact ⟨rfl, rfl, rfl, rfl, fun _ => rfl, nofun⟩

end Sys2Proof.Machine

/-!
PROOFS. The reset line (70_reset_and_hazards.md): what the ports of an engine with BUSY = 0 show, and the statement settled from
it.
-/

namespace Sys2Proof.Machine

/-! ## The ports while BUSY = 0 -/

section Ports
variable {s : State}

/-- Whatever is left in `pending`: only BUSY puts an event on a port (20_memory.md R51, R52). -/
theorem currentEvent_of_not_busy (h : s.busy = false) : s.currentEvent = none := by
  simp [State.currentEvent, h]

theorem pinValid_of_not_busy (h : s.busy = false) : s.pinValid = false := by
  rw [State.pinValid, currentEvent_of_not_busy h]

theorem dlyValid_of_not_busy (h : s.busy = false) : s.dlyValid = false := by
  rw [State.dlyValid, currentEvent_of_not_busy h]

theorem cmdReady_of_not_busy (h : s.busy = false) : s.cmdReady = true := by
  rw [State.cmdReady, h, Bool.not_false]

end Ports

/-! ## The statement -/

/-- Settles O2, by the one step a held line allows, to the reset state, and the ports of a state with BUSY = 0. -/
theorem resetLineTakesTheResetState : Obligations.ResetLineTakesTheResetState := by
  intro s hr
  have hbusy : (applyReset s).busy = false := applyReset_busy s
  refine ⟨applyReset s, step_rst hr, ?phase, ?err, hbusy, ?pins, ?regs, pinValid_of_not_busy hbusy,
    dlyValid_of_not_busy hbusy, cmdReady_of_not_busy hbusy, applyReset_trace s⟩
  case phase => rw [State.phase, applyReset_life, phase_unconfigured]
  case err => rw [applyReset_err, ResultCode.toBits]
  case pins => rw [applyReset_life, pins_unconfigured]
  case regs => rw [applyReset_life, regs_unconfigured]

end Sys2Proof.Machine

/-!
PROOFS. The two encodings (30_encoding.md): what a packet and a command byte are read back as, and the statements settled from
it.
-/

namespace Sys2Proof.Machine

/-! ## Host packets -/

/-- A packet is the encoding of what it decodes to, but for the rw byte that R83 ignores when rwen = 0. -/
def Reencodes (bytes : List Byte) (i : Instr) : Prop :=
  bytes = encode i ∨ ∃ rs rw en d, i = .construct rs none en d ∧ bytes = 0x01 :: rs :: 0x00 :: rw :: en :: d

theorem formatK_reencodes {args : List Byte} {i : Instr} (h : formatK args = .ok i) : Reencodes (0x01 :: args) i := by
  unfold formatK at h
  split at h
  case h_1 rs rwen rw en d =>
    split at h
    case isTrue h0 =>
      cases h
      exact .inr ⟨rs, rw, en, d, rfl, by rw [h0]⟩
    case isFalse =>
      split at h
      case isTrue h1 =>
        cases h
        exact .inl (by rw [h1]; rfl)
      case isFalse => cases h
  case h_2 => cases h

theorem decodePacket_reencodes {p : Packet} {i : Instr} (h : decodePacket p = .ok i) : Reencodes (p.op :: p.args) i := by
  unfold decodePacket at h
  split at h
  case h_1 hop => rw [op_of_toNat hop]; exact formatK_reencodes h
  case h_2 hop => obtain ⟨_, _, _, ha, rfl⟩ := formatI_ok h; exact .inl (by rw [op_of_toNat hop, ha]; rfl)
  case h_5 hop => obtain ⟨_, _, ha, rfl⟩ := formatS_ok h; exact .inl (by rw [op_of_toNat hop, ha]; rfl)
  case h_18 hop => obtain ⟨_, _, ha, rfl⟩ := formatG_ok h; exact .inl (by rw [op_of_toNat hop, ha]; rfl)
  case h_19 hop => cases h; exact .inl (by rw [op_of_toNat hop]; rfl)
  case h_21 => cases h
  all_goals
    rename_i hop
    obtain ⟨ha, rfl⟩ := formatZ_ok h
    exact .inl (by rw [op_of_toNat hop, ha]; rfl)

theorem decodeBytes_reencodes {bytes : List Byte} {i : Instr} (h : decodeBytes bytes = .ok i) :
    i.space = .hostPacket ∧ Reencodes bytes i := by
  cases bytes with
  | nil => cases h
  | cons op args => exact ⟨decodePacket_space h, decodePacket_reencodes h⟩

/-- Every instruction is read back from its encoding in its own space. -/
theorem decodeIn_encode (i : Instr) : decodeIn i.space (encode i) = some i := by
  cases i with
  | construct rs rw en d => exact Laws.RoundTrip.construct rs rw en d
  | init columns lines dotSize => exact Laws.RoundTrip.init columns lines dotSize
  | clear => exact Laws.RoundTrip.clear
  | home => exact Laws.RoundTrip.home
  | setCursor col row => exact Laws.RoundTrip.setCursor col row
  | display => exact Laws.RoundTrip.display
  | noDisplay => exact Laws.RoundTrip.noDisplay
  | cursor => exact Laws.RoundTrip.cursor
  | noCursor => exact Laws.RoundTrip.noCursor
  | blink => exact Laws.RoundTrip.blink
  | noBlink => exact Laws.RoundTrip.noBlink
  | scrollLeft => exact Laws.RoundTrip.scrollLeft
  | scrollRight => exact Laws.RoundTrip.scrollRight
  | leftToRight => exact Laws.RoundTrip.leftToRight
  | rightToLeft => exact Laws.RoundTrip.rightToLeft
  | autoscroll => exact Laws.RoundTrip.autoscroll
  | noAutoscroll => exact Laws.RoundTrip.noAutoscroll
  | createChar location bitmap => exact Laws.RoundTrip.createChar location bitmap
  | print text => exact Laws.RoundTrip.print text
  | dispose => exact Laws.RoundTrip.dispose
  | lcdClearDisplay => exact Laws.RoundTrip.lcdClearDisplay
  | lcdReturnHome => exact Laws.RoundTrip.lcdReturnHome
  | lcdEntryModeSet left shift => exact Laws.RoundTrip.lcdEntryModeSet left shift
  | lcdDisplayControl d c b => exact Laws.RoundTrip.lcdDisplayControl d c b
  | lcdCursorShift sc rl => exact Laws.RoundTrip.lcdCursorShift sc rl
  | lcdFunctionSet dl n f => exact Laws.RoundTrip.lcdFunctionSet dl n f
  | lcdSetCgramAddr addr => exact Laws.RoundTrip.lcdSetCgramAddr addr
  | lcdSetDdramAddr addr => exact Laws.RoundTrip.lcdSetDdramAddr addr

/-! ## LCD command bytes under any codes -/

/-- A byte has a flag exactly if every bit of the flag's code is set in it. -/
theorem hasFlag_iff {v code : Byte} : hasFlag v code = true ↔ ∀ k, code.getLsbD k = true → v.getLsbD k = true := by
  rw [hasFlag, beq_iff_eq]
  constructor
  · intro h k hk
    rw [← h, BitVec.getLsbD_and, Bool.and_eq_true] at hk
    exact hk.1
  · intro h
    refine BitVec.eq_of_getLsbD_eq fun k _ => ?_
    rw [BitVec.getLsbD_and, Bool.and_eq_right_iff_imp]
    exact h k

theorem flagBit_getLsbD (on : Bool) (code : Byte) (k : Nat) : (flagBit on code).getLsbD k = (on && code.getLsbD k) := by
  cases on <;> simp [flagBit]

/-- Fields read back from a byte with three flags assemble the same byte: a field may be read as set where other codes cover its
bits, and then its code adds nothing. -/
theorem flags_reread {v base x y z : Byte} {a b c : Bool} (h : v = base ||| flagBit a x ||| flagBit b y ||| flagBit c z) :
    base ||| flagBit (hasFlag v x) x ||| flagBit (hasFlag v y) y ||| flagBit (hasFlag v z) z = v := by
  have covers : ∀ on code, (∀ k, (flagBit on code).getLsbD k = true → v.getLsbD k = true) → on = true → hasFlag v code = true := by
    rintro _ code hk rfl
    exact hasFlag_iff.2 hk
  have hx := covers a x fun k hk => by simp [h, hk]
  have hy := covers b y fun k hk => by simp [h, hk]
  have hz := covers c z fun k hk => by simp [h, hk]
  refine BitVec.eq_of_getLsbD_eq fun k _ => Bool.eq_iff_iff.2 ?_
  have hv : v.getLsbD k = (base.getLsbD k || (a && x.getLsbD k) || (b && y.getLsbD k) || (c && z.getLsbD k)) := by
    simp only [h, BitVec.getLsbD_or, flagBit_getLsbD]
  simp only [BitVec.getLsbD_or, flagBit_getLsbD, Bool.or_eq_true, Bool.and_eq_true]
  constructor
  · rintro (((hb | ⟨hf, hk⟩) | ⟨hf, hk⟩) | ⟨hf, hk⟩)
    · simp [hv, hb]
    all_goals exact hasFlag_iff.1 hf k hk
  · intro hk
    simp only [hv, Bool.or_eq_true, Bool.and_eq_true] at hk
    exact hk.imp (.imp (.imp_right (.imp_left hx)) (.imp_left hy)) (.imp_left hz)

theorem flagBit_zero (on : Bool) : flagBit on 0#8 = 0#8 := ite_self 0#8

/-- The same with two flags. -/
theorem flags_reread_two {v base x y : Byte} {a b : Bool} (h : v = base ||| flagBit a x ||| flagBit b y) :
    base ||| flagBit (hasFlag v x) x ||| flagBit (hasFlag v y) y = v := by
  have h3 : v = base ||| flagBit a x ||| flagBit b y ||| flagBit false 0#8 := by simpa [flagBit_zero] using h
  simpa [flagBit_zero] using flags_reread h3

/-- An address read back from a byte assembles the same byte: of the address bits, the code alone sets no more than were set. -/
theorem address_reread {w : Nat} {v base : Byte} {addr : BitVec w} (h : v = base ||| addr.setWidth 8) :
    base ||| (v.extractLsb' 0 w).setWidth 8 = v := by
  subst h
  refine BitVec.eq_of_getLsbD_eq fun k hk => ?_
  by_cases hkw : k < w
  · simp [hk, hkw]
  · simp [hk, hkw, BitVec.getLsbD_of_ge addr k (by omega)]

/-- A byte that is some LCD command's byte has a reading with the same byte. -/
theorem exists_reading (c : LcdCodes) {i : Instr} (hi : i.space = .lcdCommand) :
    ∃ j ∈ lcdReadings c (lcdByte c i), lcdByte c j = lcdByte c i := by
  cases i with
  | lcdClearDisplay => exact ⟨.lcdClearDisplay, by simp [lcdReadings], rfl⟩
  | lcdReturnHome => exact ⟨.lcdReturnHome, by simp [lcdReadings], rfl⟩
  | lcdEntryModeSet left shift => exact ⟨.lcdEntryModeSet _ _, by simp [lcdReadings], flags_reread_two rfl⟩
  | lcdDisplayControl d k b => exact ⟨.lcdDisplayControl _ _ _, by simp [lcdReadings], flags_reread rfl⟩
  | lcdCursorShift sc rl => exact ⟨.lcdCursorShift _ _, by simp [lcdReadings], flags_reread_two rfl⟩
  | lcdFunctionSet dl n f => exact ⟨.lcdFunctionSet _ _ _, by simp [lcdReadings], flags_reread rfl⟩
  | lcdSetCgramAddr addr => exact ⟨.lcdSetCgramAddr _, by simp [lcdReadings], address_reread rfl⟩
  | lcdSetDdramAddr addr => exact ⟨.lcdSetDdramAddr _, by simp [lcdReadings], address_reread rfl⟩
  | _ => cases hi

/-- Whatever the codes, the byte of an LCD command is read as some LCD command. -/
theorem exists_decodeLcdWith (c : LcdCodes) {i : Instr} (hi : i.space = .lcdCommand) :
    ∃ j, decodeLcdWith c (lcdByte c i) = some j := by
  obtain ⟨j, hj, hb⟩ := exists_reading c hi
  exact Option.isSome_iff_exists.1 (List.find?_isSome.2 ⟨j, hj, beq_iff_eq.2 hb⟩)

/-- Whatever the codes, a byte that is read as an LCD command is that command's encoding. -/
theorem decodeLcdWith_encodes {c : LcdCodes} {v : Byte} {i : Instr} (h : decodeLcdWith c v = some i) :
    i.space = .lcdCommand ∧ encodeWith c i = [v] := by
  obtain ⟨hs, hb⟩ := decodeLcdWith_some h
  exact ⟨hs, by rw [encodeWith_lcd hs, hb]⟩

/-- With the default codes a byte is read as the one LCD command whose byte it is. -/
theorem decodeLcd_eq_some_iff {v : Byte} {i : Instr} : decodeLcd v = some i ↔ i.space = .lcdCommand ∧ encode i = [v] := by
  constructor
  · exact decodeLcdWith_encodes
  · rintro ⟨hs, he⟩
    have h := decodeIn_encode i
    rwa [hs, he] at h

/-- Settles O13: round trip by instruction, packets by the decoder's inversion, command bytes by rereading their fields. -/
theorem decodeAndEncodeAgree : Obligations.DecodeAndEncodeAgree := by
  refine ⟨decodeIn_encode, fun _ _ => decodeBytes_reencodes, fun _ _ _ => decodeLcdWith_encodes, ?read,
    fun _ _ => decodeLcd_eq_some_iff⟩
  case read =>
    intro c v i hs he
    rw [encodeWith_lcd hs, List.singleton_inj] at he
    exact he ▸ exists_decodeLcdWith c hs

/-! ## The command bytes the engine assembles, with the default codes -/

theorem decodeLcd_of_lcdByte {v : Byte} {i : Instr} (hs : i.space = .lcdCommand) (h : lcdByte lcdCodes i = v) :
    decodeLcd v = some i :=
  decodeLcd_eq_some_iff.2 ⟨hs, by rw [encode, encodeWith_lcd hs, h]⟩

theorem decodeLcd_functionSetByte {func : Byte} (h : func &&& 0xE3 = 0) : decodeLcd (functionSetByte lcdCodes func) =
    some (.lcdFunctionSet (func.getLsbD 4) (func.getLsbD 3) (func.getLsbD 2)) := by
  refine decodeLcd_of_lcdByte rfl ?_
  revert func
  decide

theorem decodeLcd_displayControlByte {dctrl : Byte} (h : dctrl &&& 0xF8 = 0) :
    decodeLcd (displayControlByte lcdCodes dctrl) =
      some (.lcdDisplayControl (dctrl.getLsbD 2) (dctrl.getLsbD 1) (dctrl.getLsbD 0)) := by
  refine decodeLcd_of_lcdByte rfl ?_
  revert dctrl
  decide

theorem decodeLcd_entryModeByte {emode : Byte} (h : emode &&& 0xFC = 0) :
    decodeLcd (entryModeByte lcdCodes emode) = some (.lcdEntryModeSet (emode.getLsbD 1) (emode.getLsbD 0)) := by
  refine decodeLcd_of_lcdByte rfl ?_
  revert emode
  decide

/-- The top bit of the sum is the command's own bit, so the address is the sum modulo 128 (43_display_commands.md R177). -/
theorem decodeLcd_setDdramByte (col offset : Byte) : decodeLcd (setDdramByte lcdCodes col offset) =
    some (.lcdSetDdramAddr (BitVec.ofNat 7 ((col.toNat + offset.toNat) % 128))) := by
  refine decodeLcd_of_lcdByte rfl ?_
  have haddr : BitVec.ofNat 7 ((col.toNat + offset.toNat) % 128) = (col + offset).setWidth 7 :=
    BitVec.eq_of_toNat_eq (by simp)
  rw [haddr, setDdramByte]
  generalize col + offset = sum
  revert sum
  decide

theorem decodeLcd_setCgramByte (location : Byte) : decodeLcd (setCgramByte lcdCodes location) =
    some (.lcdSetCgramAddr (BitVec.ofNat 6 (8 * (location.toNat % 8)))) := by
  refine decodeLcd_of_lcdByte rfl ?_
  revert location
  decide

/-- Settles O15, byte by byte: each is the default byte of the LCD command with these fields. -/
theorem assembledBytesCarryTheFields : Obligations.AssembledBytesCarryTheFields :=
  ⟨fun _ => decodeLcd_functionSetByte, fun _ => decodeLcd_displayControlByte, fun _ => decodeLcd_entryModeByte,
    decodeLcd_setDdramByte, decodeLcd_setCgramByte, decodeLcd_of_lcdByte rfl rfl, decodeLcd_of_lcdByte rfl rfl⟩

/-! ## The layouts of R89 -/

/-- Settles O14: the fixed bytes and flags by their finitely many values, the addresses by theirs. -/
theorem lcdCommandBytesByLayout : Obligations.LcdCommandBytesByLayout := by
  refine ⟨rfl, rfl, ?entryMode, ?displayControl, ?cursorShift, ?functionSet, ?cgram, ?ddram⟩ <;> decide

/-- Settles O10: each word by evaluating its decoder. -/
theorem wordsOfTheSpecDecode : Obligations.WordsOfTheSpecDecode :=
  ⟨rfl, rfl, rfl, rfl, rfl, rfl, rfl, rfl, by decide, by decide, by decide⟩

/-! ## Decode errors -/

theorem opcodeAssigned_eq_false_iff {op : Byte} : opcodeAssigned op = false ↔ op = 0x00 ∨ 0x15 ≤ op.toNat := by
  have hzero : op = 0x00 ↔ op.toNat = 0 := BitVec.toNat_inj.symm
  rw [hzero, opcodeAssigned, Bool.and_eq_false_iff, decide_eq_false_iff_not, decide_eq_false_iff_not]
  omega

/-- Settles O11: an unassigned opcode is illegal, and on an assigned one the decoder answers an instruction or a FormatError. -/
theorem illegalOpcodesAreTheUnassignedOnes : Obligations.IllegalOpcodesAreTheUnassignedOnes := by
  intro p
  rw [← opcodeAssigned_eq_false_iff]
  refine ⟨fun h => ?_, decodePacket_unassigned⟩
  by_contra hop
  rw [Bool.not_eq_false] at hop
  obtain ⟨misfit, fits⟩ := decodePacket_checks hop
  cases hfit : formatFits p with
  | false => cases (misfit hfit).symm.trans h
  | true =>
    obtain ⟨i, hi⟩ := fits hfit
    cases hi.symm.trans h

/-- Settles O12: the decoder of an assigned opcode makes the length check of its format. -/
theorem formatErrorsAreTheLengthErrors : Obligations.FormatErrorsAreTheLengthErrors := fun _ => decodePacket_checks

/-! ## The host port -/

theorem beatsOf_data (b : Byte) (bs : List Byte) : (beatsOf b bs).map Beat.data = b :: bs := by
  induction bs generalizing b with
  | nil => rfl
  | cons c cs ih => rw [beatsOf, List.map_cons, ih]

theorem beatsOf_last (b : Byte) (bs : List Byte) :
    (beatsOf b bs).map Beat.last = List.replicate bs.length false ++ [true] := by
  induction bs generalizing b with
  | nil => rfl
  | cons c cs ih => rw [beatsOf, List.map_cons, ih, List.length_cons, List.replicate_succ, List.cons_append]

/-- The port is read up to the one byte with `cmd_last`, whatever follows it. -/
theorem takePacket_beatsOf (b : Byte) (bs : List Byte) (rest : List Beat) :
    takePacket (beatsOf b bs ++ rest) = some (⟨b, bs⟩, rest) := by
  induction bs generalizing b with
  | nil => rfl
  | cons c cs ih => simp [beatsOf, takePacket, ih]

/-- Settles O7, by induction on the operand bytes. -/
theorem packetCrossesTheHostPort : Obligations.PacketCrossesTheHostPort :=
  fun p rest => ⟨beatsOf_data p.op p.args, beatsOf_last p.op p.args, takePacket_beatsOf p.op p.args rest⟩

end Sys2Proof.Machine

/-!
PROOFS. The sequencer (10_state.md R27, R36): which unit of work a step runs, what running an instruction can leave, and the
statements settled from it.
-/

namespace Sys2Proof.Machine

/-! ## Calls of a transfer primitive -/

section Call
variable {f : PinAssignment → List Event} {s : State} {pa : PinAssignment}

/-- In a busy engine that holds a Pin Assignment a call only puts its events before the rest of the program. -/
theorem callMicro_busy (hb : s.busy = true) (h : s.life.pins = some pa) :
    callMicro f s = { s with pending := (f pa).map .emit ++ s.pending } := by
  rw [callMicro_some h, ← hb]

end Call

/-! ## What a step of a busy engine does -/

section Busy
variable {s : State} {ms : List Micro}

theorem step_emit {e : Event} (hr : s.rst = false) (hb : s.busy = true) (hp : s.pending = .emit e :: ms) :
    step s = .next (issue e { s with pending := ms }) :=
  (step_busy hr hb).trans (busyStep_emit hp)

theorem step_call {m : Micro} {pa : PinAssignment} (hr : s.rst = false) (hb : s.busy = true) (hl : s.life.pins = some pa)
    (hp : s.pending = m :: ms) (hm : isCall m = true) :
    step s = .next { s with pending := (microEvents (some pa) m).map .emit ++ ms } := by
  have call : ∀ f, callMicro f { s with pending := ms } = { s with pending := (f pa).map .emit ++ ms } :=
    fun f => callMicro_busy (s := { s with pending := ms }) hb hl
  rw [step_busy hr hb]
  cases m with
  | emit e => cases hm
  | sendCommand v => rw [busyStep_sendCommand hp, call]; rfl
  | sendCharacter v => rw [busyStep_sendCharacter hp, call]; rfl
  | write4 x => rw [busyStep_write4 hp, call]; rfl

end Busy

/-- Settles O40: the events of a call are those of its transfer primitive. -/
theorem dataBytesAndRawNibblesRunInPlace : Obligations.DataBytesAndRawNibblesRunInPlace :=
  fun _ _ _ hr hb hl => ⟨fun _ hp => step_call hr hb hl hp rfl, fun _ hp => step_call hr hb hl hp rfl⟩

/-- Settles O55: entering the call needs no decoding of the byte. -/
theorem commandBytesAreSentAsTheyStand : Obligations.CommandBytesAreSentAsTheyStand :=
  fun _ _ _ _ hr hb hl hp => step_call hr hb hl hp rfl

/-- Settles O5, by the branch of a busy step for a byte that decodes. -/
theorem stepRunsTheCalledLcdCommand : Obligations.StepRunsTheCalledLcdCommand := by
  intro s v ms i hr hb hp hd
  rw [step_busy hr hb, busyStep, hp]
  simp only [hd]

/-! ## What a step of an idle engine does -/

/-- Settles O3: with no whole packet an idle step changes nothing. -/
theorem idleEngineWaitsForAPacket : Obligations.IdleEngineWaitsForAPacket :=
  fun _ hr hb ht => (step_idle hr hb).trans (acceptStep_none ht)

theorem step_packet {s : State} {p : Packet} {rest : List Beat} (hr : s.rst = false) (hb : s.busy = false)
    (ht : takePacket s.hostIn = some (p, rest)) : step s = runPacket p { s with hostIn := rest } :=
  (step_idle hr hb).trans (acceptStep_some ht)

/-- Settles O4, by the decoder's answer: an instruction is run, an error refuses an idle engine. -/
theorem stepRunsTheDecodedPacket : Obligations.StepRunsTheDecodedPacket := by
  intro s p rest hr hi ht
  have idle : Idle { s with hostIn := rest } := hi
  obtain ⟨hb, -⟩ := hi
  rw [step_packet hr hb ht]
  refine ⟨?decoded, ?illegal, ?format⟩
  case decoded => exact fun i hd => runPacket_ok _ hd
  case illegal =>
    intro hd
    rw [runPacket_error _ hd, raise_idle idle, errorCode]
  case format =>
    intro hd
    rw [runPacket_error _ hd, raise_idle idle, errorCode]

/-! ## LCD commands as instructions -/

/-- An LCD command, run while a Pin Assignment is held, sends the byte the codes give it, before what is left of the program. -/
theorem exec_lcd_assigned {i : Instr} {s : State} {pa : PinAssignment} (hi : i.space = .lcdCommand)
    (hl : s.life.pins = some pa) : exec i s =
      .next { s with busy := true, pending := (send pa (lcdByte s.codes i) false).map .emit ++ s.pending } := by
  rw [exec_lcd hi, sendLcd, callMicro_some hl]
  rfl

/-- Settles O36: an LCD command sends the byte its codes assemble, which with the default codes is its encoding, and that the
byte of the layout table. -/
theorem lcdCommandsSendTheirByte : Obligations.LcdCommandsSendTheirByte := by
  intro s pa hl sends
  have assembled : ∀ i : Instr, i.space = .lcdCommand → exec i s = sends (lcdByte s.codes i) :=
    fun i hi => exec_lcd_assigned hi hl
  refine ⟨assembled _ rfl, assembled _ rfl, fun _ _ => assembled _ rfl, fun _ _ _ => assembled _ rfl,
    fun _ _ => assembled _ rfl, fun _ _ _ => assembled _ rfl, fun _ => assembled _ rfl, fun _ => assembled _ rfl, ?_⟩
  intro hc
  have encoded : ∀ (i : Instr) (v : Byte), i.space = .lcdCommand → encode i = [v] → exec i s = sends v := by
    intro i v hi he
    rw [encode, encodeWith_lcd hi, List.singleton_inj] at he
    rw [assembled i hi, hc, he]
  obtain ⟨clear, home, entryMode, displayControl, cursorShift, functionSet, cgram, ddram⟩ := lcdCommandBytesByLayout
  exact ⟨encoded _ _ rfl clear, encoded _ _ rfl home, fun l h => encoded _ _ rfl (entryMode l h),
    fun d c b => encoded _ _ rfl (displayControl d c b), fun sc rl => encoded _ _ rfl (cursorShift sc rl),
    fun dl n f => encoded _ _ rfl (functionSet dl n f), fun a => encoded _ _ rfl (cgram a),
    fun a => encoded _ _ rfl (ddram a)⟩

/-! ## Table words -/

section TableWord
variable {s : State} {nbits w : Nat} {i : Instr}

theorem tableWordLcd_space (h : tableWordLcd nbits w = some i) : i.space = .lcdCommand := by
  rw [tableWordLcd, Option.ite_none_right_eq_some] at h
  obtain ⟨-, hd⟩ := h
  exact (decodeLcdWith_some hd).1

theorem decodeBytes_of_decodeIn {bytes : List Byte} (h : decodeIn .hostPacket bytes = some i) : decodeBytes bytes = .ok i := by
  rw [decodeIn] at h
  cases hb : decodeBytes bytes with
  | error e => rw [hb] at h; cases h
  | ok j => rw [hb] at h; cases h; rfl

/-- A table word of an LCD command lays the byte at the head of a busy program, and that byte is what the command sends. -/
theorem step_withFetchWord_lcd (h : tableWordLcd nbits w = some i) :
    step (s.withFetchWord nbits w) = exec i { s with rst := false, busy := true } := by
  rw [State.withFetchWord, h, step_busy rfl rfl, busyStep_sendCommand rfl, exec_lcd (tableWordLcd_space h), sendLcd]

/-- A table word of a host operation lays a packet in front of an idle engine, which takes it whole. -/
theorem step_withFetchWord_host (hlcd : tableWordLcd nbits w = none) (hd : decodeBytes (tableBytes nbits w) = .ok i) :
    step (s.withFetchWord nbits w) = exec i { s with rst := false, busy := false, pending := [] } := by
  rw [State.withFetchWord, hlcd]
  cases hb : tableBytes nbits w with
  | nil => rw [hb] at hd; cases hd
  | cons op args =>
    rw [hb] at hd
    exact (step_packet rfl rfl (takePacket_beatsOf op args s.hostIn)).trans (runPacket_ok _ hd)

end TableWord

/-- Settles O6, by the space the word is read in. -/
theorem tableWordsAreFetchedAndRun : Obligations.TableWordsAreFetchedAndRun := by
  intro s nbits w i h
  rw [decodeTableWord, Option.or_eq_some_iff] at h
  obtain hlcd | ⟨hlcd, hhost⟩ := h
  · have hs := tableWordLcd_space hlcd
    exact ⟨fun hh => Space.noConfusion (hs.symm.trans hh), fun _ => step_withFetchWord_lcd hlcd⟩
  · have hd := decodeBytes_of_decodeIn hhost
    obtain ⟨hs, -⟩ := decodeBytes_reencodes hd
    exact ⟨fun _ => step_withFetchWord_host hlcd hd, fun hh => Space.noConfusion (hs.symm.trans hh)⟩

/-! ## What an instruction and a step can leave -/

/-- An instruction is committed or refused as a host operation, or calls SendCommand as an LCD command. -/
theorem exec_next_cases {i : Instr} {s t : State} (h : exec i s = .next t) :
    (i.space = .hostPacket ∧ Commits i s t) ∨ (i.space = .lcdCommand ∧ t = sendLcd i s) := by
  cases hi : i.space with
  | hostPacket =>
    obtain ⟨u, hu, hc⟩ := exec_commits hi s
    cases hu.symm.trans h
    exact .inl ⟨rfl, hc⟩
  | lcdCommand =>
    cases (exec_lcd hi s).symm.trans h
    exact .inr ⟨rfl, rfl⟩

/-- What a host operation never touches. -/
theorem Commits.frame {i : Instr} {s t : State} (h : Commits i s t) :
    t.codes = s.codes ∧ t.hostIn = s.hostIn ∧ t.trace = s.trace ∧ t.pins = s.pins := by
  cases h <;> exact ⟨rfl, rfl, rfl, rfl⟩

/-- With or without a Pin Assignment, an LCD command touches only the program, BUSY and ERR. -/
theorem sendLcd_frame (i : Instr) (s : State) :
    ∃ err busy pending, sendLcd i s = { s with err := err, busy := busy, pending := pending } := by
  cases h : s.life.pins with
  | none => exact ⟨_, _, _, callMicro_none h⟩
  | some pa => exact ⟨_, _, _, callMicro_some h⟩

/-- What a step can make of a state. -/
inductive StepsTo (s : State) : State → Prop where
  | resets (hr : s.rst = true) : StepsTo s (applyReset s)
  | waits (hr : s.rst = false) (hb : s.busy = false) : StepsTo s s
  | takes (i : Instr) (rest : List Beat) (t : State) (hr : s.rst = false) (hb : s.busy = false)
      (hc : Commits i { s with hostIn := rest } t) : StepsTo s t
  | completes (hr : s.rst = false) (hb : s.busy = true) (hp : s.pending = []) : StepsTo s (complete s)
  | issues (e : Event) (ms : List Micro) (hr : s.rst = false) (hb : s.busy = true) (hp : s.pending = .emit e :: ms) :
      StepsTo s (issue e { s with pending := ms })
  | calls (pa : PinAssignment) (m : Micro) (ms : List Micro) (hr : s.rst = false) (hb : s.busy = true)
      (hl : s.life.pins = some pa) (hp : s.pending = m :: ms) (hm : isCall m = true) :
      StepsTo s { s with pending := (microEvents (some pa) m).map .emit ++ ms }
  | refusesCall (m : Micro) (ms : List Micro) (hr : s.rst = false) (hb : s.busy = true) (hl : s.life.pins = none)
      (hp : s.pending = m :: ms) (hm : isCall m = true) : StepsTo s (raise .phaseError { s with pending := ms })

/-- Every step answers a next state, and this is all it can do. -/
theorem exists_step (s : State) : ∃ t, step s = .next t ∧ StepsTo s t := by
  rcases step_cases s with ⟨hr, hs⟩ | ⟨hr, hb, -, hs⟩ | ⟨p, rest, t, hr, hb, -, hs, hrun, -⟩ | ⟨hr, hb, hp, hs⟩ |
    ⟨e, ms, hr, hb, hp, hs⟩ | ⟨m, ms, hr, hb, hp, hm, hs⟩
  · exact ⟨_, hs, .resets hr⟩
  · exact ⟨_, hs, .waits hr hb⟩
  · obtain ⟨i, u, hu, hc⟩ := runPacket_commits p { s with hostIn := rest }
    cases hu.symm.trans hrun
    exact ⟨_, hs, .takes i rest _ hr hb hc⟩
  · exact ⟨_, hs, .completes hr hb hp⟩
  · exact ⟨_, hs, .issues e ms hr hb hp⟩
  · have call : isCall m = true := by
      cases m with
      | emit e => exact absurd rfl (hm e)
      | sendCommand v => rfl
      | sendCharacter v => rfl
      | write4 x => rfl
    cases hl : s.life.pins with
    | none =>
      rw [callMicro_none (s := { s with pending := ms }) hl] at hs
      exact ⟨_, hs, .refusesCall m ms hr hb hl hp call⟩
    | some pa => exact ⟨_, step_call hr hb hl hp call, .calls pa m ms hr hb hl hp call⟩

theorem stepsTo_of_step {s t : State} (h : step s = .next t) : StepsTo s t := by
  obtain ⟨u, hu, hsteps⟩ := exists_step s
  cases hu.symm.trans h
  exact hsteps

theorem StepsTo.codes_eq {s t : State} (h : StepsTo s t) : t.codes = s.codes := by
  cases h with
  | takes i rest t hr hb hc =>
    obtain ⟨codes, -⟩ := hc.frame
    exact codes
  | _ => rfl

/-- Settles O56, for a step by its kinds and for an instruction by its outcomes. -/
theorem codesAreNeverChanged : Obligations.CodesAreNeverChanged := by
  refine ⟨fun s t h => (stepsTo_of_step h).codes_eq, fun i s t h => ?_⟩
  obtain ⟨-, hc⟩ | ⟨-, rfl⟩ := exec_next_cases h
  · obtain ⟨codes, -⟩ := hc.frame
    exact codes
  · obtain ⟨err, busy, pending, hf⟩ := sendLcd_frame i s
    rw [hf]

/-- Settles O9: each kind of step answers a next state. -/
theorem everyStateHasANextState : Obligations.EveryStateHasANextState := by
  intro s
  obtain ⟨t, ht, -⟩ := exists_step s
  exact ⟨t, ht⟩

/-- Settles O8, by the kinds of a step of a busy engine: the end of a command, an event, a call. -/
theorem busyEngineTakesNoPacket : Obligations.BusyEngineTakesNoPacket := by
  intro s t hr hb h
  refine ⟨?_, by rw [State.cmdReady, hb, Bool.not_true]⟩
  cases stepsTo_of_step h with
  | takes i rest t hr hb' hc => exact absurd hb (by simp [hb'])
  | _ => rfl

/-- What an event does to the two latches of every line (20_memory.md R55). -/
theorem latches_after_event (e : Event) (m : Memory) (q : PinId) :
    (Memory.dir (applyEvent e m) q = (match e with
      | .cfg p d => if q = p then some d else Memory.dir m q
      | .wr _ _ => Memory.dir m q
      | .delay _ => Memory.dir m q)) ∧
    Memory.level (applyEvent e m) q = (match e with
      | .wr p l => if q = p then some l else Memory.level m q
      | .cfg _ _ => Memory.level m q
      | .delay _ => Memory.level m q) := by
  cases e with
  | cfg p d => exact ⟨dir_cfg m p q d, level_cfg m p q d⟩
  | wr p l => exact ⟨dir_wr m p q l, level_wr m p q l⟩
  | delay n => exact ⟨dir_delay m q n, level_delay m q n⟩

/-- Settles O47, by the kinds of a step: only the one that issues an event touches the trace and the latches. -/
theorem stepsIssueEventsOneByOne : Obligations.StepsIssueEventsOneByOne := by
  intro s t hr h
  cases stepsTo_of_step h with
  | resets hr' => exact absurd hr (by simp [hr'])
  | takes i rest t hr hb hc =>
    obtain ⟨-, -, trace, pins⟩ := hc.frame
    exact .inl ⟨trace, pins⟩
  | issues e ms hr hb hp =>
    exact .inr ⟨e, hb, hp, rfl, fun q => (latches_after_event e s.pins q).1, fun q => (latches_after_event e s.pins q).2⟩
  | _ => exact .inl ⟨rfl, rfl⟩

/-! ## The ports of the engine -/

theorem event_request (e : Event) : e.request.event = some e := by
  cases e with
  | cfg p d => cases d <;> rfl
  | wr p l => cases l <;> rfl
  | delay n => rfl

/-- One event is on one port. -/
theorem not_both_valid (s : State) : ¬ (s.pinValid = true ∧ s.dlyValid = true) := by
  unfold State.pinValid State.dlyValid
  cases s.currentEvent with
  | none => simp
  | some e => cases e <;> simp

theorem busy_of_request {s : State} (h : s.pinValid = true ∨ s.dlyValid = true) : s.busy = true := by
  by_contra hb
  rw [Bool.not_eq_true] at hb
  simp [pinValid_of_not_busy hb, dlyValid_of_not_busy hb] at h

/-- Settles O16, by the kinds of events and the ports of an engine that is not busy. -/
theorem eventsCrossTheirPorts : Obligations.EventsCrossTheirPorts :=
  ⟨event_request, not_both_valid, fun _ => busy_of_request⟩

/-! ## A program run to its end -/

section Run
variable {s : State} {ms : List Micro}

/-- A state after it has issued events and come to the rest of its program. -/
def State.issued (s : State) (es : List Event) (ms : List Micro) : State :=
  { s with pending := ms, trace := s.trace ++ es, pins := applyEvents es s.pins }

theorem issued_issued (s : State) (es fs : List Event) (ms ns : List Micro) :
    (s.issued es ms).issued fs ns = s.issued (es ++ fs) ns := by
  simp [State.issued]

theorem issued_nil (hp : s.pending = ms) : s.issued [] ms = s := by
  simp [State.issued, ← hp]

theorem runSteps_one {s t : State} (h : step s = .next t) : runSteps 1 s = .next t := by simp [runSteps, h]

/-- One step for each event. -/
theorem runSteps_emits {es : List Event} (hr : s.rst = false) (hb : s.busy = true) (hp : s.pending = es.map .emit ++ ms) :
    runSteps es.length s = .next (s.issued es ms) := by
  induction es generalizing s with
  | nil => exact congrArg Host.Outcome.next (issued_nil hp).symm
  | cons e es ih =>
    have first : runSteps 1 s = .next (s.issued [e] (es.map .emit ++ ms)) := runSteps_one (step_emit hr hb hp)
    rw [List.length_cons, Nat.add_comm, runSteps_add first, ih (s := s.issued [e] _) hr hb rfl, issued_issued,
      List.singleton_append]

theorem runSteps_unit {m : Micro} (hr : s.rst = false) (hb : s.busy = true) (hp : s.pending = m :: ms)
    (hm : s.life.pins = none → isCall m = false) :
    runSteps (stepsOf s.life.pins m) s = .next (s.issued (microEvents s.life.pins m) ms) := by
  cases hc : isCall m with
  | false =>
    cases m with
    | emit e => exact runSteps_emits (es := [e]) hr hb hp
    | _ => cases hc
  | true =>
    obtain ⟨pa, hl⟩ := Option.ne_none_iff_exists'.1 fun hl => Bool.noConfusion (hc.symm.trans (hm hl))
    rw [hl, stepsOf, if_pos hc, Nat.add_comm, runSteps_add (runSteps_one (step_call hr hb hl hp hc))]
    exact runSteps_emits (s := { s with pending := (microEvents (some pa) m).map .emit ++ ms }) hr hb rfl

theorem runSteps_units (hr : s.rst = false) (hb : s.busy = true) (hp : s.pending = ms)
    (hm : s.life.pins = none → ∀ m ∈ ms, isCall m = false) :
    runSteps (ms.map (stepsOf s.life.pins)).sum s = .next (s.issued (eventsOf s.life.pins ms) []) := by
  induction ms generalizing s with
  | nil => rw [eventsOf_nil, issued_nil hp]; rfl
  | cons m ms ih =>
    have first := runSteps_unit hr hb hp fun hl => hm hl m (by simp)
    have rest := ih (s := s.issued (microEvents s.life.pins m) ms) hr hb rfl fun hl k hk => hm hl k (by simp [hk])
    rw [List.map_cons, List.sum_cons, runSteps_add first, eventsOf_cons, ← issued_issued]
    exact rest

/-- A busy engine whose calls have a Pin Assignment issues its program and comes to rest with ERR = OK. -/
theorem runSteps_stepsToIdle (hr : s.rst = false) (hb : s.busy = true)
    (hm : s.life.pins = none → ∀ m ∈ s.pending, isCall m = false) :
    runSteps (stepsToIdle s) s = .next (complete (s.issued s.remaining [])) := by
  have last : step (s.issued s.remaining []) = .next (complete (s.issued s.remaining [])) :=
    (step_busy (s := s.issued s.remaining []) hr hb).trans (busyStep_nil rfl)
  rw [stepsToIdle, runSteps_add (runSteps_units hr hb rfl hm)]
  exact runSteps_one last

end Run

/-- Settles O48, by induction on the program, each unit by its events. -/
theorem commandRunsToItsEnd : Obligations.CommandRunsToItsEnd :=
  fun _ inv hr hb => runSteps_stepsToIdle hr hb inv.assigned

end Sys2Proof.Machine

/-!
PROOFS. What each command writes (10_state.md R26, R35; 41_initialization.md; 43_display_commands.md to 45_data_commands.md): the
registers and the program of INIT, the laws of the row clamp and of the flags, and the statements settled from them.
-/

namespace Sys2Proof.Machine

/-! ## Which registers an instruction writes -/

/-- A Pin Assignment is held in CONFIGURED and in READY alone (10_state.md R31). -/
theorem phase_of_pins {s : State} {pa : PinAssignment} (h : s.life.pins = some pa) :
    s.phase = .configured ∨ s.phase = .ready := by
  rw [State.phase]
  cases hl : s.life with
  | unconfigured => rw [hl, pins_unconfigured] at h; cases h
  | configured pa' => exact .inl rfl
  | ready pa' r => exact .inr rfl

/-- Settles O44, by what each host operation commits; an LCD command writes no register. -/
theorem phaseChangesOnlyByTheLifecycleCommands : Obligations.PhaseChangesOnlyByTheLifecycleCommands := by
  intro i s t h
  obtain ⟨-, hc⟩ | ⟨-, rfl⟩ := exec_next_cases h
  case inl =>
    cases hc with
    | refused e ho hr => exact ⟨.inl rfl, fun _ => rfl⟩
    | construct rs rw en data hi hl =>
      exact ⟨.inr (.inl ⟨⟨rs, rw, en, data.toList, hi⟩, by rw [State.phase, hl, phase_unconfigured], rfl⟩), nofun⟩
    | init pa columns lines dotSize hi hl =>
      refine ⟨?_, nofun⟩
      obtain hp | hp := phase_of_pins hl
      · exact .inr (.inr (.inl ⟨⟨columns, lines, dotSize, hi⟩, hp, rfl⟩))
      · exact .inl hp.symm
    | dispose pa hi hl =>
      refine ⟨.inr (.inr (.inr ⟨hi, fun hu => ?_, rfl⟩)), nofun⟩
      obtain hp | hp := phase_of_pins hl
      · cases hu.symm.trans hp
      · cases hu.symm.trans hp
    | sends pa r program hl hp => exact ⟨.inl (by rw [State.phase, State.phase, hl, accept_life]), nofun⟩
    | dctrl pa r f hi hl => exact ⟨.inl (by rw [State.phase, State.phase, hl, accept_life, phase_ready, phase_ready]), nofun⟩
    | emode pa r f hi hl => exact ⟨.inl (by rw [State.phase, State.phase, hl, accept_life, phase_ready, phase_ready]), nofun⟩
  case inr =>
    obtain ⟨err, busy, pending, hf⟩ := sendLcd_frame i s
    rw [hf]
    exact ⟨.inl rfl, fun _ => rfl⟩

/-- A host operation keeps a Pin Assignment that is held, or empties it. -/
theorem Commits.pins_kept {i : Instr} {s t : State} {pa pa' : PinAssignment} (h : Commits i s t) (hl : s.life.pins = some pa)
    (ht : t.life.pins = some pa') : pa' = pa := by
  cases h with
  | refused e ho hr => exact Option.some_inj.1 (ht.symm.trans hl)
  | construct rs rw en data hi hs => rw [hs, pins_unconfigured] at hl; cases hl
  | init pa'' columns lines dotSize hi hs => exact Option.some_inj.1 (ht.symm.trans (hs.symm.trans hl))
  | dispose pa'' hi hs => cases ht
  | sends pa'' r program hs hp => rw [hs] at hl; exact Option.some_inj.1 (ht.symm.trans hl)
  | dctrl pa'' r f hi hs => rw [hs] at hl; exact Option.some_inj.1 (ht.symm.trans hl)
  | emode pa'' r f hi hs => rw [hs] at hl; exact Option.some_inj.1 (ht.symm.trans hl)

/-- Settles O45, by the kinds of a step, of which only taking a packet writes a register. -/
theorem pinAssignmentIsNeverReassigned : Obligations.PinAssignmentIsNeverReassigned := by
  intro s t pa pa' hr h hl ht
  cases stepsTo_of_step h with
  | resets hr' => cases ht
  | takes i rest t _ hb hc => exact hc.pins_kept hl ht
  | _ => exact Option.some_inj.1 (ht.symm.trans hl)

theorem mem_dctrl_commands {c : LcdCodes} {i : Instr} {f : Byte → Byte} (h : (i, f) ∈ dctrlUpdates c) :
    i ∈ [Instr.display, .noDisplay, .cursor, .noCursor, .blink, .noBlink] :=
  dctrlUpdates_commands c ▸ List.mem_map_of_mem (f := Prod.fst) h

theorem mem_emode_commands {c : LcdCodes} {i : Instr} {f : Byte → Byte} (h : (i, f) ∈ emodeUpdates c) :
    i ∈ [Instr.leftToRight, .rightToLeft, .autoscroll, .noAutoscroll] :=
  emodeUpdates_commands c ▸ List.mem_map_of_mem (f := Prod.fst) h

/-- Settles O46, by what each host operation commits; an LCD command writes no register. -/
theorem onlyTheListedCommandsWriteARegister : Obligations.OnlyTheListedCommandsWriteARegister := by
  intro i s t h hdispose
  obtain ⟨-, hc⟩ | ⟨-, rfl⟩ := exec_next_cases h
  case inl =>
    cases hc with
    | refused e ho hr => exact ⟨fun _ => rfl, fun _ => ⟨rfl, rfl, rfl, fun _ => rfl, fun _ => rfl⟩⟩
    | construct rs rw en data hi hl =>
      refine ⟨fun hn => absurd hi (hn _ _ _ _), fun _ => ?_⟩
      simp [State.func, State.nlines, State.rowoff, State.dctrl, State.emode, hl]
    | init pa columns lines dotSize hi hl => exact ⟨fun _ => hl.symm, fun hn => absurd hi (hn _ _ _)⟩
    | dispose pa hi hl => exact absurd hi hdispose
    | sends pa r program hl hp => simp [State.func, State.nlines, State.rowoff, State.dctrl, State.emode, hl]
    | dctrl pa r f hi hl =>
      have hmem := mem_dctrl_commands hi
      refine ⟨fun _ => by rw [hl]; rfl, fun _ => ⟨?_, ?_, ?_, fun hn => absurd hmem hn, fun _ => ?_⟩⟩
      all_goals simp [State.func, State.nlines, State.rowoff, State.emode, hl]
    | emode pa r f hi hl =>
      have hmem := mem_emode_commands hi
      refine ⟨fun _ => by rw [hl]; rfl, fun _ => ⟨?_, ?_, ?_, fun _ => ?_, fun hn => absurd hmem hn⟩⟩
      all_goals simp [State.func, State.nlines, State.rowoff, State.dctrl, hl]
  case inr =>
    obtain ⟨err, busy, pending, hf⟩ := sendLcd_frame i s
    rw [hf]
    exact ⟨fun _ => rfl, fun _ => ⟨rfl, rfl, rfl, fun _ => rfl, fun _ => rfl⟩⟩

/-! ## INIT -/

theorem exec_init_assigned {s : State} {pa : PinAssignment} (columns lines dotSize : Byte) (h : s.life.pins = some pa) :
    exec (.init columns lines dotSize) s =
      .next (accept (.ready pa (initRegs s.codes pa columns lines dotSize))
        (initProgram s.codes pa (initRegs s.codes pa columns lines dotSize)) s) :=
  congrArg Host.Outcome.next (whenAssigned_some h)

theorem exec_init_phaseError {s : State} (columns lines dotSize : Byte) (h : s.life.pins = none) :
    exec (.init columns lines dotSize) s = .next (raise .phaseError s) :=
  congrArg Host.Outcome.next (whenAssigned_none h)

theorem flagBit_decide (P : Prop) [Decidable P] (code : Byte) : flagBit (decide P) code = if P then code else 0 := by
  by_cases h : P <;> simp [flagBit, h]

theorem is8_iff (pa : PinAssignment) : pa.data.is8 = true ↔ pa.n = 8 := by
  unfold PinAssignment.n
  cases pa.data.is8 <;> decide

/-- The program of INIT on 4 lines, unit by unit (41_initialization.md R131, R134 to R138). -/
theorem initProgram_four (c : LcdCodes) (rs : PinId) (rw : Option PinId) (en d0 d1 d2 d3 : PinId) (r : DataRegs) :
    initProgram c ⟨rs, rw, en, .four d0 d1 d2 d3⟩ r =
      [.emit (.cfg rs .output)] ++ (rw.toList.map fun p => .emit (.cfg p .output)) ++ [.emit (.cfg en .output),
        .emit (.cfg d0 .output), .emit (.cfg d1 .output), .emit (.cfg d2 .output), .emit (.cfg d3 .output),
        .emit (.delay 50000), .emit (.wr rs false), .emit (.wr en false)] ++
      (rw.toList.map fun p => .emit (.wr p false)) ++
      [.write4 0x3, .emit (.delay 4500), .write4 0x3, .emit (.delay 4500), .write4 0x3, .emit (.delay 150), .write4 0x2,
        .sendCommand (c.FUNCTIONSET ||| r.func), .sendCommand (c.DISPLAYCONTROL ||| r.dctrl),
        .sendCommand c.CLEARDISPLAY, .emit (.delay 2000), .sendCommand (c.ENTRYMODESET ||| r.emode)] := by
  cases rw <;> rfl

/-- The program of INIT on 8 lines. -/
theorem initProgram_eight (c : LcdCodes) (rs : PinId) (rw : Option PinId) (en d0 d1 d2 d3 d4 d5 d6 d7 : PinId) (r : DataRegs) :
    initProgram c ⟨rs, rw, en, .eight d0 d1 d2 d3 d4 d5 d6 d7⟩ r =
      [.emit (.cfg rs .output)] ++ (rw.toList.map fun p => .emit (.cfg p .output)) ++ [.emit (.cfg en .output),
        .emit (.cfg d0 .output), .emit (.cfg d1 .output), .emit (.cfg d2 .output), .emit (.cfg d3 .output),
        .emit (.cfg d4 .output), .emit (.cfg d5 .output), .emit (.cfg d6 .output), .emit (.cfg d7 .output),
        .emit (.delay 50000), .emit (.wr rs false), .emit (.wr en false)] ++
      (rw.toList.map fun p => .emit (.wr p false)) ++
      [.sendCommand (c.FUNCTIONSET ||| r.func), .emit (.delay 4500), .sendCommand (c.FUNCTIONSET ||| r.func),
        .emit (.delay 150), .sendCommand (c.FUNCTIONSET ||| r.func),
        .sendCommand (c.FUNCTIONSET ||| r.func), .sendCommand (c.DISPLAYCONTROL ||| r.dctrl),
        .sendCommand c.CLEARDISPLAY, .emit (.delay 2000), .sendCommand (c.ENTRYMODESET ||| r.emode)] := by
  cases rw <;> rfl

/-- Settles O23: the commit of INIT with its program written out for each width, and the refusal without a Pin Assignment. -/
theorem initRunsTheTenSteps : Obligations.InitRunsTheTenSteps := by
  refine ⟨?four, ?eight, ?phase⟩
  case four =>
    intro columns lines dotSize rs rw en d0 d1 d2 d3 s func hl hfunc
    have flags : functionFlags s.codes ⟨rs, rw, en, .four d0 d1 d2 d3⟩ lines dotSize = func := by
      rw [hfunc, functionFlags, flagBit_decide, flagBit_decide]
      simp [DataLines.is8, flagBit]
    rw [exec_init_assigned columns lines dotSize hl, initRegs, flags, initProgram_four]
    rfl
  case eight =>
    intro columns lines dotSize rs rw en d0 d1 d2 d3 d4 d5 d6 d7 s func hl hfunc
    have flags : functionFlags s.codes ⟨rs, rw, en, .eight d0 d1 d2 d3 d4 d5 d6 d7⟩ lines dotSize = func := by
      rw [hfunc, functionFlags, flagBit_decide, flagBit_decide]
      rfl
    rw [exec_init_assigned columns lines dotSize hl, initRegs, flags, initProgram_eight]
    rfl
  case phase =>
    intro columns lines dotSize s hi hl
    have hp : s.life.pins = none := by rw [hl, pins_unconfigured]
    rw [exec_init_phaseError columns lines dotSize hp, raise_idle hi]

/-- FUNC is its three flags, each at its own bit, with the default codes. -/
theorem default_function_flags (dl n f : Bool) :
    let func := flagBit dl lcdCodes.BUS_8BIT ||| flagBit n lcdCodes.LINES_2 ||| flagBit f lcdCodes.FONT_5x10
    func.getLsbD 4 = dl ∧ func.getLsbD 3 = n ∧ func.getLsbD 2 = f ∧ func &&& 0xE3 = 0 := by
  revert dl n f
  decide

/-- Settles O24, from the places of the three flags. -/
theorem initComputesTheFunctionFlags : Obligations.InitComputesTheFunctionFlags := by
  intro pa lines dotSize
  obtain ⟨hdl, hn, hf, unused⟩ := default_function_flags pa.data.is8 (decide (1 < lines.toNat))
    (decide (dotSize ≠ 0 ∧ lines.toNat ≤ 1))
  rw [functionFlags, hdl, hn, hf]
  exact ⟨is8_iff pa, decide_eq_true_iff, decide_eq_true_iff, unused⟩

/-! ## The row clamp (43_display_commands.md R176) -/

/-- SETCURSOR depends on the row through its clamp alone. -/
theorem exec_setCursor_congr {s : State} {pa : PinAssignment} {r : DataRegs} {row row' : Byte} (col : Byte)
    (hl : s.life = .ready pa r) (h : clampRow r.nlines row = clampRow r.nlines row') :
    exec (.setCursor col row) s = exec (.setCursor col row') s := by
  cases hk : clampRow r.nlines row' with
  | none => rw [exec_setCursor_rowUnderflow col hl hk, exec_setCursor_rowUnderflow col hl (h.trans hk)]
  | some k => rw [exec_setCursor_sends col hl hk, exec_setCursor_sends col hl (h.trans hk)]

/-- Rows with the same clamp value are clamped alike. -/
theorem clampRow_congr {nlines row row' : Byte}
    (h : min row.toNat (min 4 nlines.toNat - 1) = min row'.toNat (min 4 nlines.toNat - 1)) :
    clampRow nlines row = clampRow nlines row' := by
  simp only [clampRow, h]

/-- Settles O28: both rows have the same clamp, the last configured row or the last row of the table. -/
theorem rowsBeyondTheEndActAsTheLastRow : Obligations.RowsBeyondTheEndActAsTheLastRow := by
  intro col row s pa r hl
  refine ⟨?lines, ?table⟩
  case lines =>
    intro hrow hn hfour
    have last : (r.nlines - 1).toNat = r.nlines.toNat - 1 := by
      have hpos : r.nlines.toNat ≠ 0 := fun h => hn (BitVec.eq_of_toNat_eq h)
      bv_omega
    exact exec_setCursor_congr col hl (clampRow_congr (by omega))
  case table =>
    intro hrow hfour
    have three : (3 : Byte).toNat = 3 := rfl
    exact exec_setCursor_congr col hl (clampRow_congr (by omega))

/-! ## Scrolling and CREATECHAR -/

theorem exec_scrollLeft (s : State) :
    exec .scrollLeft s = .next (runReady (fun _ _ => [.sendCommand (shiftLeftByte s.codes)]) s) := rfl

theorem exec_scrollRight (s : State) :
    exec .scrollRight s = .next (runReady (fun _ _ => [.sendCommand (shiftRightByte s.codes)]) s) := rfl

/-- Settles O29, by the two outcomes of a command of READY. -/
theorem scrollCommandsSendOneShift : Obligations.ScrollCommandsSendOneShift := by
  intro s
  rw [exec_scrollLeft, exec_scrollRight]
  refine ⟨?ready, ?phase⟩
  case ready =>
    intro pa r hl
    rw [runReady_starts_program hl, runReady_starts_program hl]
    exact ⟨rfl, rfl⟩
  case phase =>
    intro hi hp
    rw [runReady_phaseError hi hp, runReady_phaseError hi hp]
    exact ⟨rfl, rfl⟩

section CreateChar
variable {s : State} {pa : PinAssignment} {r : DataRegs} {bitmap : List Byte}

theorem exec_createChar_sends (location : Byte) (hl : s.life = .ready pa r) (hb : bitmap.length = 8) :
    exec (.createChar location bitmap) s = .next (accept s.life
      (.sendCommand (setCgramByte s.codes location) :: bitmap.map .sendCharacter) s) := by
  rw [exec, execCreateChar, whenReady_ready hl, if_pos hb, hl]

theorem exec_createChar_invalidArgument (location : Byte) (hl : s.life = .ready pa r) (hb : bitmap.length ≠ 8) :
    exec (.createChar location bitmap) s = .next (raise .invalidArgument s) := by
  rw [exec, execCreateChar, whenReady_ready hl, if_neg hb]

theorem exec_createChar_phaseError (location : Byte) (hp : s.phase ≠ .ready) :
    exec (.createChar location bitmap) s = .next (raise .phaseError s) := by
  rw [exec, execCreateChar, whenReady_other hp]

end CreateChar

/-- Settles O34, by the three outcomes of CREATECHAR: eight bitmap bytes, another count, wrong phase. -/
theorem createCharSendsAddressAndBitmap : Obligations.CreateCharSendsAddressAndBitmap := by
  intro location s
  refine ⟨?sends, ?argument, ?phase⟩
  case sends =>
    intro pa r b0 b1 b2 b3 b4 b5 b6 b7 hl
    rw [exec_createChar_sends location hl rfl]
    rfl
  case argument =>
    intro bitmap hi hp hb
    obtain ⟨pa, r, hl⟩ := exists_life_eq_ready hp
    rw [exec_createChar_invalidArgument location hl hb, raise_idle hi]
  case phase =>
    intro bitmap hi hp
    rw [exec_createChar_phaseError location hp, raise_idle hi]

/-! ## The laws of the flags (44_flag_commands.md R191) -/

theorem setFlag_idem (reg bit : Byte) : setFlag (setFlag reg bit) bit = setFlag reg bit := by
  rw [setFlag, setFlag, BitVec.or_assoc, BitVec.or_self]

theorem clearFlag_idem (reg bit : Byte) : clearFlag (clearFlag reg bit) bit = clearFlag reg bit := by
  rw [clearFlag, clearFlag, BitVec.and_assoc, BitVec.and_self]

theorem clearFlag_setFlag {reg bit : Byte} (h : reg &&& bit = 0) : clearFlag (setFlag reg bit) bit = reg := by
  refine BitVec.eq_of_getLsbD_eq fun k hk => ?_
  have hbit : (reg &&& bit).getLsbD k = false := by rw [h]; exact BitVec.getLsbD_zero
  rw [BitVec.getLsbD_and] at hbit
  simp only [clearFlag, setFlag, BitVec.getLsbD_and, BitVec.getLsbD_or, BitVec.getLsbD_not, hk, decide_true, Bool.true_and]
  revert hbit
  cases reg.getLsbD k <;> cases bit.getLsbD k <;> decide

theorem setFlag_clearFlag {reg bit : Byte} (h : reg &&& bit = bit) : setFlag (clearFlag reg bit) bit = reg := by
  refine BitVec.eq_of_getLsbD_eq fun k hk => ?_
  have hbit : (reg &&& bit).getLsbD k = bit.getLsbD k := by rw [h]
  rw [BitVec.getLsbD_and] at hbit
  simp only [clearFlag, setFlag, BitVec.getLsbD_and, BitVec.getLsbD_or, BitVec.getLsbD_not, hk, decide_true, Bool.true_and]
  revert hbit
  cases reg.getLsbD k <;> cases bit.getLsbD k <;> decide

theorem dctrlUpdates_idem {c : LcdCodes} {i : Instr} {f : Byte → Byte} (h : (i, f) ∈ dctrlUpdates c) (v : Byte) :
    f (f v) = f v := by
  simp only [dctrlUpdates, List.mem_cons, List.not_mem_nil, or_false, Prod.mk.injEq] at h
  obtain ⟨-, rfl⟩ | ⟨-, rfl⟩ | ⟨-, rfl⟩ | ⟨-, rfl⟩ | ⟨-, rfl⟩ | ⟨-, rfl⟩ := h <;> simp only [setFlag_idem, clearFlag_idem]

theorem emodeUpdates_idem {c : LcdCodes} {i : Instr} {f : Byte → Byte} (h : (i, f) ∈ emodeUpdates c) (v : Byte) :
    f (f v) = f v := by
  simp only [emodeUpdates, List.mem_cons, List.not_mem_nil, or_false, Prod.mk.injEq] at h
  obtain ⟨-, rfl⟩ | ⟨-, rfl⟩ | ⟨-, rfl⟩ | ⟨-, rfl⟩ := h <;> simp only [setFlag_idem, clearFlag_idem]

/-- A flag command is one of the two groups of updates. -/
theorem flag_command_cases {i : Instr} (c : LcdCodes) (h : i ∈ [Instr.display, .noDisplay, .cursor, .noCursor, .blink, .noBlink,
    .leftToRight, .rightToLeft, .autoscroll, .noAutoscroll]) :
    (∃ f, (i, f) ∈ dctrlUpdates c) ∨ ∃ f, (i, f) ∈ emodeUpdates c := by
  have groups : i ∈ (dctrlUpdates c).map Prod.fst ++ (emodeUpdates c).map Prod.fst := h
  rw [List.mem_append, List.mem_map, List.mem_map] at groups
  obtain ⟨⟨j, f⟩, hf, rfl⟩ | ⟨⟨j, f⟩, hf, rfl⟩ := groups
  · exact .inl ⟨f, hf⟩
  · exact .inr ⟨f, hf⟩

section Groups
variable {s t : State} {pa : PinAssignment} {r : DataRegs} {i : Instr} {f : Byte → Byte} (hl : s.life = .ready pa r)
include hl

/-- One run of a display-control command in READY: the register it writes and the byte it sends. -/
theorem dctrl_run (hf : (i, f) ∈ dctrlUpdates s.codes) (ht : exec i s = .next t) :
    t.codes = s.codes ∧ t.life = .ready pa { r with dctrl := f r.dctrl } ∧
      t.pending = [.sendCommand (displayControlByte s.codes (f r.dctrl))] := by
  rw [exec_of_mem_dctrlUpdates hf, updateDctrl_ready hl] at ht
  cases ht
  exact ⟨rfl, rfl, rfl⟩

/-- One run of an entry-mode command in READY. -/
theorem emode_run (hf : (i, f) ∈ emodeUpdates s.codes) (ht : exec i s = .next t) :
    t.codes = s.codes ∧ t.life = .ready pa { r with emode := f r.emode } ∧
      t.pending = [.sendCommand (entryModeByte s.codes (f r.emode))] := by
  rw [exec_of_mem_emodeUpdates hf, updateEmode_ready hl] at ht
  cases ht
  exact ⟨rfl, rfl, rfl⟩

end Groups

/-- Settles O32: each update is idempotent on its register, and the byte it sends is the register's. -/
theorem flagCommandsAreIdempotent : Obligations.FlagCommandsAreIdempotent := by
  intro s t u i hp hmem ht hu
  obtain ⟨pa, r, hl⟩ := exists_life_eq_ready hp
  obtain ⟨f, hf⟩ | ⟨f, hf⟩ := flag_command_cases s.codes hmem
  · obtain ⟨hct, hlt, hpt⟩ := dctrl_run hl hf ht
    have hf' : (i, f) ∈ dctrlUpdates t.codes := hct ▸ hf
    obtain ⟨-, hlu, hpu⟩ := dctrl_run
      (s := { t with busy := false, pending := [], trace := t.trace ++ t.remaining }) hlt hf' hu
    simp only [hlu, hpu, hlt, hpt, hct, dctrlUpdates_idem hf, and_self]
  · obtain ⟨hct, hlt, hpt⟩ := emode_run hl hf ht
    have hf' : (i, f) ∈ emodeUpdates t.codes := hct ▸ hf
    obtain ⟨-, hlu, hpu⟩ := emode_run
      (s := { t with busy := false, pending := [], trace := t.trace ++ t.remaining }) hlt hf' hu
    simp only [hlu, hpu, hlt, hpt, hct, emodeUpdates_idem hf, and_self]

section Pairs
variable {s t u : State} {pa : PinAssignment} {r : DataRegs} {i j : Instr} {f g : Byte → Byte} (hl : s.life = .ready pa r)
include hl

/-- Two display-control commands of which the second undoes the first restore the registers. -/
theorem dctrl_undone (hi : (i, f) ∈ dctrlUpdates s.codes) (hj : (j, g) ∈ dctrlUpdates s.codes)
    (hg : g (f r.dctrl) = r.dctrl) (ht : exec i s = .next t)
    (hu : exec j { t with busy := false, pending := [] } = .next u) : u.life = s.life := by
  obtain ⟨hct, hlt, -⟩ := dctrl_run hl hi ht
  have hj' : (j, g) ∈ dctrlUpdates t.codes := hct ▸ hj
  obtain ⟨-, hlu, -⟩ := dctrl_run (s := { t with busy := false, pending := [] }) hlt hj' hu
  simp only [hlu, hg, hl]

/-- Two entry-mode commands of which the second undoes the first restore the registers. -/
theorem emode_undone (hi : (i, f) ∈ emodeUpdates s.codes) (hj : (j, g) ∈ emodeUpdates s.codes)
    (hg : g (f r.emode) = r.emode) (ht : exec i s = .next t)
    (hu : exec j { t with busy := false, pending := [] } = .next u) : u.life = s.life := by
  obtain ⟨hct, hlt, -⟩ := emode_run hl hi ht
  have hj' : (j, g) ∈ emodeUpdates t.codes := hct ▸ hj
  obtain ⟨-, hlu, -⟩ := emode_run (s := { t with busy := false, pending := [] }) hlt hj' hu
  simp only [hlu, hg, hl]

end Pairs

/-- The pairs of setter and clearer in each group: both update the register at one code. -/
theorem flag_pair_cases {setter clearer : Instr} {reg : DataRegs → Byte} {code : LcdCodes → Byte} (c : LcdCodes)
    (h : (setter, clearer, reg, code) ∈ [(Instr.display, Instr.noDisplay, DataRegs.dctrl, LcdCodes.DISPLAY_ON),
      (.cursor, .noCursor, DataRegs.dctrl, LcdCodes.CURSOR_ON), (.blink, .noBlink, DataRegs.dctrl, LcdCodes.BLINK_ON),
      (.leftToRight, .rightToLeft, DataRegs.emode, LcdCodes.ENTRY_LEFT),
      (.autoscroll, .noAutoscroll, DataRegs.emode, LcdCodes.ENTRY_SHIFT)]) :
    (reg = DataRegs.dctrl ∧ (setter, (setFlag · (code c))) ∈ dctrlUpdates c ∧
      (clearer, (clearFlag · (code c))) ∈ dctrlUpdates c) ∨
    (reg = DataRegs.emode ∧ (setter, (setFlag · (code c))) ∈ emodeUpdates c ∧
      (clearer, (clearFlag · (code c))) ∈ emodeUpdates c) := by
  simp only [List.mem_cons, List.not_mem_nil, or_false, Prod.mk.injEq] at h
  obtain ⟨rfl, rfl, rfl, rfl⟩ | ⟨rfl, rfl, rfl, rfl⟩ | ⟨rfl, rfl, rfl, rfl⟩ | ⟨rfl, rfl, rfl, rfl⟩ | ⟨rfl, rfl, rfl, rfl⟩ := h
  · exact .inl ⟨rfl, by simp [dctrlUpdates], by simp [dctrlUpdates]⟩
  · exact .inl ⟨rfl, by simp [dctrlUpdates], by simp [dctrlUpdates]⟩
  · exact .inl ⟨rfl, by simp [dctrlUpdates], by simp [dctrlUpdates]⟩
  · exact .inr ⟨rfl, by simp [emodeUpdates], by simp [emodeUpdates]⟩
  · exact .inr ⟨rfl, by simp [emodeUpdates], by simp [emodeUpdates]⟩

/-- Settles O33: clearing undoes setting a clear flag, and setting undoes clearing a set one, in either group. -/
theorem flagCommandPairsAreInverse : Obligations.FlagCommandPairsAreInverse := by
  intro s t u pa r setter clearer reg code hl hmem
  obtain ⟨rfl, hs, hc⟩ | ⟨rfl, hs, hc⟩ := flag_pair_cases s.codes hmem
  · exact ⟨fun h => dctrl_undone hl hs hc (clearFlag_setFlag h), fun h => dctrl_undone hl hc hs (setFlag_clearFlag h)⟩
  · exact ⟨fun h => emode_undone hl hs hc (clearFlag_setFlag h), fun h => emode_undone hl hc hs (setFlag_clearFlag h)⟩

end Sys2Proof.Machine

/-!
PROOFS. The lines under the transfer primitives (42_transfer_primitives.md R151 to R163, 20_memory.md R57 to R60): what is
latched, which levels are left, what is written to enable and to read/write, and the statements settled from it.
-/

namespace Sys2Proof.Machine

/-! ## Present puts a value on the data lines -/

/-- The level writes that put levels on lines, in order. -/
def writes (ls : List (PinId × Level)) : List Event := ls.map fun q => .wr q.1 q.2

theorem present_eq_writes {w : Nat} (ds : List PinId) (x : BitVec w) :
    present ds x = writes (ds.zipIdx.map fun di => (di.1, x.getLsbD di.2)) := by
  simp [present, writes]

theorem not_mem_writes {p : PinId} {ls : List (PinId × Level)} (h : p ∉ ls.map Prod.fst) (l : Level) :
    Event.wr p l ∉ writes ls := by
  intro hm
  obtain ⟨q, hq, he⟩ := List.mem_map.1 hm
  cases he
  exact h (List.mem_map_of_mem hq)

/-- Writes to different lines leave each line at the level written to it. -/
theorem levels_writes {ls : List (PinId × Level)} (h : (ls.map Prod.fst).Nodup) (m : Memory) :
    (ls.map Prod.fst).map (Memory.level (applyEvents (writes ls) m)) = ls.map fun q => some q.2 := by
  induction ls generalizing m with
  | nil => rfl
  | cons q ls ih =>
    obtain ⟨hq, hls⟩ := List.nodup_cons.1 h
    have head : Memory.level (applyEvents (writes ls) (applyEvent (.wr q.1 q.2) m)) q.1 = some q.2 := by
      rw [level_of_no_write (not_mem_writes hq), level_wr, if_pos rfl]
    exact List.cons_eq_cons.2 ⟨head, ih hls _⟩

/-- After Present each data line has its bit (20_memory.md R57). -/
theorem levels_present {w : Nat} {ds : List PinId} (h : ds.Nodup) (hw : ds.length = w) (x : BitVec w) (m : Memory) :
    ds.map (Memory.level (applyEvents (present ds x) m)) = (List.range w).map fun i => some (x.getLsbD i) := by
  have lines : (ds.zipIdx.map fun di => (di.1, x.getLsbD di.2)).map Prod.fst = ds := by
    rw [List.map_map]
    exact List.zipIdx_map_fst 0 ds
  have bits : (ds.zipIdx.map fun di => (di.1, x.getLsbD di.2)).map (fun q => some q.2) =
      (ds.zipIdx.map Prod.snd).map fun i => some (x.getLsbD i) := by
    rw [List.map_map, List.map_map]
    rfl
  have written := levels_writes (ls := ds.zipIdx.map fun di => (di.1, x.getLsbD di.2)) (lines.symm ▸ h) m
  rw [← present_eq_writes, lines, bits, List.zipIdx_map_snd, ← List.range_eq_range', hw] at written
  exact written

/-! ## What is latched -/

section Latched
variable {pa : PinAssignment} {m : Memory} (hd : DistinctPins pa)
include hd

theorem data_nodup : pa.data.toList.Nodup := by
  have suffix : pa.data.toList <:+ pa.owned := ⟨pa.rs :: (pa.rw.toList ++ [pa.en]), by simp [PinAssignment.owned]⟩
  exact hd.sublist suffix.sublist

/-- A pulse latches what stands on the lines, once, at its falling edge (20_memory.md R60). -/
theorem latched_pulse (he : Memory.level m pa.en ≠ some true) : latched pa m (pulse pa) = [sample pa m] := by
  obtain ⟨hdata, hrs, -⟩ := en_distinct hd
  have others : ∀ p, p ≠ pa.en →
      Memory.level (applyEvents [.wr pa.en false, .delay 1, .wr pa.en true, .delay 1] m) p = Memory.level m p := by
    intro p hp
    simp [hp]
  have sampled : sample pa (applyEvents [.wr pa.en false, .delay 1, .wr pa.en true, .delay 1] m) = sample pa m := by
    have lines : pa.data.toList.map (Memory.level (applyEvents [.wr pa.en false, .delay 1, .wr pa.en true, .delay 1] m)) =
        pa.data.toList.map (Memory.level m) :=
      List.map_congr_left fun p hp => others p fun h => hdata (h ▸ hp)
    rw [sample, sample, lines, others _ hrs.symm]
  rw [pulse_events, ← sampled]
  simp [latched, latches, he]

/-- One transfer on all data lines latches the value, with register-select as it stands. -/
theorem latched_transfer {w : Nat} {rs : Level} (x : BitVec w) (hw : pa.data.toList.length = w)
    (hr : Memory.level m pa.rs = some rs) (he : Memory.level m pa.en ≠ some true) :
    latched pa m (present pa.data.toList x ++ pulse pa) = [Transfer.ofValue rs x] := by
  obtain ⟨hen, -, -⟩ := en_distinct hd
  obtain ⟨hrs, -, -⟩ := rs_distinct hd
  have enable : Memory.level (applyEvents (present pa.data.toList x) m) pa.en = Memory.level m pa.en :=
    level_of_no_write (fun _ h => hen (mem_of_present h)) m
  have select : Memory.level (applyEvents (present pa.data.toList x) m) pa.rs = some rs :=
    (level_of_no_write (fun _ h => hrs (mem_of_present h)) m).trans hr
  rw [latched_append, latched_none fun h => hen (mem_of_present h), latched_pulse hd (enable.symm ▸ he), List.nil_append, sample,
    select, levels_present (data_nodup hd) hw, Transfer.ofValue]

end Latched

/-! ## Levels after a transfer -/

/-- A transfer leaves enable low. -/
theorem level_transfer_en {w : Nat} (pa : PinAssignment) (ds : List PinId) (x : BitVec w) (m : Memory) :
    Memory.level (applyEvents (present ds x ++ pulse pa) m) pa.en = some false := by
  rw [applyEvents_append, level_pulse, if_pos rfl]

/-- A transfer writes no line but the data lines and enable. -/
theorem level_transfer_other {w : Nat} {pa : PinAssignment} {ds : List PinId} {p : PinId} (hp : p ∉ ds) (he : p ≠ pa.en)
    (x : BitVec w) (m : Memory) : Memory.level (applyEvents (present ds x ++ pulse pa) m) p = Memory.level m p := by
  rw [applyEvents_append, level_pulse, if_neg he, level_of_no_write fun _ h => hp (mem_of_present h)]

/-- On 4 lines a nibble is one transfer on all of them. -/
theorem write4_eq_transfer {pa : PinAssignment} (h : pa.data.is8 = false) (x : Nibble) :
    write4 pa x = present pa.data.toList x ++ pulse pa := by
  have hlen : pa.data.toList.length = 4 := by rw [toList_length, h]; rfl
  rw [write4, List.take_of_length_le hlen.le]

/-- On 8 lines a byte is one transfer on all of them. -/
theorem write8_eq_transfer {pa : PinAssignment} (h : pa.data.is8 = true) (x : Byte) :
    write8 pa x = present pa.data.toList x ++ pulse pa := by
  have hlen : pa.data.toList.length = 8 := by rw [toList_length, h]; rfl
  rw [write8, List.take_of_length_le hlen.le]

/-- Enable is low and register-select at a level: how the lines stand between two transfers of one byte. -/
def Selected (pa : PinAssignment) (rs : Level) (m : Memory) : Prop :=
  Memory.level m pa.en ≠ some true ∧ Memory.level m pa.rs = some rs

section Selected
variable {pa : PinAssignment} {m : Memory} {rs : Level} (hd : DistinctPins pa)
include hd

theorem selected_write4 (h8 : pa.data.is8 = false) (h : Selected pa rs m) (x : Nibble) :
    Selected pa rs (applyEvents (write4 pa x) m) := by
  obtain ⟨hdata, hen, -⟩ := rs_distinct hd
  obtain ⟨-, hrs⟩ := h
  rw [write4_eq_transfer h8]
  exact ⟨by rw [level_transfer_en]; decide, (level_transfer_other hdata hen x m).trans hrs⟩

theorem latched_write4 (h8 : pa.data.is8 = false) (h : Selected pa rs m) (x : Nibble) :
    latched pa m (write4 pa x) = [Transfer.ofValue rs x] := by
  obtain ⟨he, hrs⟩ := h
  rw [write4_eq_transfer h8, latched_transfer hd x (by rw [toList_length, h8]; rfl) hrs he]

theorem latched_write8 (h8 : pa.data.is8 = true) (h : Selected pa rs m) (x : Byte) :
    latched pa m (write8 pa x) = [Transfer.ofValue rs x] := by
  obtain ⟨he, hrs⟩ := h
  rw [write8_eq_transfer h8, latched_transfer hd x (by rw [toList_length, h8]; rfl) hrs he]

end Selected

/-! ## Send -/

theorem mem_driveRwLow {pa : PinAssignment} {p : PinId} {l : Level} (h : Event.wr p l ∈ driveRwLow pa) :
    pa.rw = some p ∧ l = false := by
  rw [driveRwLow_eq_map] at h
  obtain ⟨q, hq, he⟩ := List.mem_map.1 h
  cases he
  exact ⟨Option.mem_toList.1 hq, rfl⟩

/-- The transfers of Send after register-select and read/write: one on 8 lines, two on 4 (R155). -/
def sendTransfers (pa : PinAssignment) (v : Byte) : List Event :=
  if pa.data.is8 then write8 pa v else write4 pa (highNibble v) ++ write4 pa (lowNibble v)

theorem send_eq (pa : PinAssignment) (v : Byte) (rs : Level) :
    send pa v rs = (.wr pa.rs rs :: driveRwLow pa) ++ sendTransfers pa v := rfl

/-- Send ends with a transfer, and so with enable low. -/
theorem level_send_en (pa : PinAssignment) (v : Byte) (rs : Level) (m : Memory) :
    Memory.level (applyEvents (send pa v rs) m) pa.en = some false := by
  rw [send_eq, applyEvents_append, sendTransfers]
  cases pa.data.is8
  · rw [if_neg Bool.false_ne_true, applyEvents_append]
    exact level_transfer_en pa _ _ _
  · rw [if_pos rfl]
    exact level_transfer_en pa _ _ _

section Send
variable {pa : PinAssignment} {m : Memory} (hd : DistinctPins pa)
include hd

theorem en_not_written_by_select (rs l : Level) : Event.wr pa.en l ∉ Event.wr pa.rs rs :: driveRwLow pa := by
  obtain ⟨-, hrs, hrw⟩ := en_distinct hd
  intro h
  obtain he | hm := List.mem_cons.1 h
  · injection he with hp
    exact hrs hp
  · exact hrw _ (mem_driveRwLow hm).1 rfl

theorem selected_select (he : Memory.level m pa.en ≠ some true) (rs : Level) :
    Selected pa rs (applyEvents (.wr pa.rs rs :: driveRwLow pa) m) := by
  obtain ⟨-, -, hrw⟩ := rs_distinct hd
  refine ⟨by rwa [level_of_no_write (en_not_written_by_select hd rs)], ?_⟩
  rw [applyEvents_cons, level_of_no_write fun _ h => hrw _ (mem_driveRwLow h).1 rfl, level_wr, if_pos rfl]

/-- Send latches the transfers of its byte (42_transfer_primitives.md R159). -/
theorem latched_send (he : Memory.level m pa.en ≠ some true) (v : Byte) (rs : Level) :
    latched pa m (send pa v rs) = byteTransfers pa v rs := by
  have selected := selected_select hd he rs
  rw [send_eq, latched_append, latched_none (en_not_written_by_select hd rs false), List.nil_append, sendTransfers, byteTransfers]
  cases h8 : pa.data.is8 with
  | true => exact latched_write8 hd h8 selected v
  | false =>
    rw [if_neg Bool.false_ne_true, if_neg Bool.false_ne_true, latched_append, latched_write4 hd h8 selected,
      latched_write4 hd h8 (selected_write4 hd h8 selected _)]
    rfl

end Send

theorem highNibble_append_lowNibble (v : Byte) : highNibble v ++ lowNibble v = v := by
  refine BitVec.eq_of_getLsbD_eq fun k hk => ?_
  rw [BitVec.getLsbD_append]
  split
  · next h => exact lowNibble_getLsbD v h
  · next h => rw [highNibble_getLsbD v (by omega), Nat.add_sub_cancel' (by omega)]

/-- The transfers of a byte by its own bits. -/
theorem byteTransfers_bits (pa : PinAssignment) (v : Byte) (rs : Level) : byteTransfers pa v rs =
    if pa.n = 8 then [⟨some rs, (List.range 8).map fun i => some (v.getLsbD i)⟩]
    else [⟨some rs, (List.range 4).map fun i => some (v.getLsbD (i + 4))⟩,
      ⟨some rs, (List.range 4).map fun i => some (v.getLsbD i)⟩] := by
  have high : Transfer.ofValue rs (highNibble v) = ⟨some rs, (List.range 4).map fun i => some (v.getLsbD (i + 4))⟩ := by
    refine congrArg _ (List.map_congr_left fun i hi => ?_)
    rw [highNibble_getLsbD v (List.mem_range.1 hi), Nat.add_comm]
  have low : Transfer.ofValue rs (lowNibble v) = ⟨some rs, (List.range 4).map fun i => some (v.getLsbD i)⟩ := by
    refine congrArg _ (List.map_congr_left fun i hi => ?_)
    rw [lowNibble_getLsbD v (List.mem_range.1 hi)]
  simp only [byteTransfers, is8_iff, high, low]
  rfl

/-- Settles O41, from the latched transfers of Send and the bits of the nibbles. -/
theorem sendLatchesTheByte : Obligations.SendLatchesTheByte := by
  intro pa m v rs hd he
  exact ⟨(latched_send hd he v rs).trans (byteTransfers_bits pa v rs), highNibble_append_lowNibble v, level_send_en pa v rs m⟩

/-! ## Programs -/

/-- A program whose plain events are delays only. -/
def WaitsOnly (program : List Micro) : Prop := ∀ e, .emit e ∈ program → ∃ n, e = .delay n

theorem waitsOnly_of_sendsOrWaits {program : List Micro} (h : ∀ u ∈ program, sendsOrWaits u = true) : WaitsOnly program := by
  intro e he
  cases e with
  | delay n => exact ⟨n, rfl⟩
  | cfg p d => cases h _ he
  | wr p l => cases h _ he

/-- Calls and delays leave a low enable low. -/
theorem level_en_program {pa : PinAssignment} {program : List Micro} {m : Memory} (h : WaitsOnly program)
    (he : Memory.level m pa.en = some false) :
    Memory.level (applyEvents (eventsOf (some pa) program) m) pa.en = some false := by
  induction program generalizing m with
  | nil => exact he
  | cons u us ih =>
    rw [eventsOf_cons, applyEvents_append]
    refine ih (fun e he' => h e (List.mem_cons_of_mem _ he')) ?_
    cases u with
    | emit e =>
      obtain ⟨n, rfl⟩ := h e List.mem_cons_self
      exact he
    | sendCommand v => exact level_send_en pa v false m
    | sendCharacter v => exact level_send_en pa v true m
    | write4 x => exact level_transfer_en pa _ x m

/-- The transfers a unit of a program latches, where it is a byte or a delay. -/
def unitTransfers (pa : PinAssignment) : Micro → List Transfer
  | .sendCommand v => byteTransfers pa v false
  | .sendCharacter v => byteTransfers pa v true
  | .emit _ => []
  | .write4 _ => []

/-- From enable low a program of bytes and delays latches its bytes, in order. -/
theorem latched_program {pa : PinAssignment} {program : List Micro} {m : Memory} (hd : DistinctPins pa)
    (he : Memory.level m pa.en = some false) (h : ∀ u ∈ program, sendsOrWaits u = true) :
    latched pa m (eventsOf (some pa) program) = program.flatMap (unitTransfers pa) := by
  induction program generalizing m with
  | nil => rfl
  | cons u us ih =>
    have hu : ∀ k ∈ [u], sendsOrWaits k = true := fun k hk => h k (List.mem_singleton.1 hk ▸ List.mem_cons_self)
    have low : Memory.level (applyEvents (microEvents (some pa) u) m) pa.en = some false := by
      simpa using level_en_program (waitsOnly_of_sendsOrWaits hu) he
    have first : latched pa m (microEvents (some pa) u) = unitTransfers pa u := by
      have notHigh : Memory.level m pa.en ≠ some true := by rw [he]; decide
      cases u with
      | emit e =>
        obtain ⟨n, rfl⟩ := waitsOnly_of_sendsOrWaits hu e List.mem_cons_self
        rfl
      | sendCommand v => exact latched_send hd notHigh v false
      | sendCharacter v => exact latched_send hd notHigh v true
      | write4 x => cases hu _ List.mem_cons_self
    rw [eventsOf_cons, latched_append, first, ih low fun k hk => h k (List.mem_cons_of_mem _ hk), List.flatMap_cons]

theorem readyProgram_sendsOrWaits {c : LcdCodes} {program : List Micro} (h : ReadyProgram c program) :
    ∀ u ∈ program, sendsOrWaits u = true := by
  cases h with
  | clear => simp [sendsOrWaits, wait]
  | home => simp [sendsOrWaits, wait]
  | setCursor col offset => simp [sendsOrWaits]
  | scrollLeft => simp [sendsOrWaits]
  | scrollRight => simp [sendsOrWaits]
  | createChar location bitmap => simp [sendsOrWaits]
  | print text => simp [sendsOrWaits]

/-- Settles O42: what each host operation commits, and the latched transfers of a program of bytes. -/
theorem programsLatchTheirBytes : Obligations.ProgramsLatchTheirBytes := by
  refine ⟨?bytes, fun pa m program => latched_program⟩
  intro i s t hi hinit hdispose ht
  obtain ⟨u, hu, hc⟩ := exec_commits hi s
  cases hu.symm.trans ht
  cases hc with
  | init pa columns lines dotSize hi' hl => exact absurd hi' (hinit columns lines dotSize)
  | dispose pa hi' hl => exact absurd hi' hdispose
  | sends pa r program hl hp => exact readyProgram_sendsOrWaits hp
  | refused e ho hr => exact List.forall_mem_nil _
  | construct rs rw en data hi' hl => exact List.forall_mem_nil _
  | dctrl pa r f hi' hl => simp [sendsOrWaits]
  | emode pa r f hi' hl => simp [sendsOrWaits]

/-! ## Writes to enable and to read/write -/

theorem writesTo_eq_nil {p : PinId} {es : List Event} (h : ∀ l, Event.wr p l ∉ es) : writesTo p es = [] :=
  List.eq_nil_iff_forall_not_mem.2 fun l hl => h l (mem_writesTo.1 hl)

theorem writesTo_en_pulse (pa : PinAssignment) : writesTo pa.en (pulse pa) = [false, true, false] := by
  simp [pulse_events, writesTo]

theorem writesTo_en_transfer {w : Nat} {pa : PinAssignment} {ds : List PinId} (h : pa.en ∉ ds) (x : BitVec w) :
    writesTo pa.en (present ds x ++ pulse pa) = [false, true, false] := by
  rw [writesTo_append, writesTo_eq_nil fun _ hm => h (mem_of_present hm), writesTo_en_pulse, List.nil_append]

/-- Settles O54: only the pulses write enable, one for each transfer. -/
theorem everyByteHasItsPulses : Obligations.EveryByteHasItsPulses := by
  intro pa v rs hd
  obtain ⟨hdata, -, -⟩ := en_distinct hd
  rw [send_eq, writesTo_append, writesTo_eq_nil (en_not_written_by_select hd rs), List.nil_append, sendTransfers]
  simp only [is8_iff]
  split
  case isTrue h8 => rw [write8_eq_transfer ((is8_iff pa).2 h8), writesTo_en_transfer hdata]
  case isFalse h8 =>
    have h4 : pa.data.is8 = false := by rwa [← is8_iff, Bool.not_eq_true] at h8
    rw [writesTo_append, write4_eq_transfer h4, write4_eq_transfer h4, writesTo_en_transfer hdata, writesTo_en_transfer hdata]
    rfl

section ReadWrite
variable {pa : PinAssignment} {p : PinId} (hd : DistinctPins pa) (hp : pa.rw = some p)
include hd hp

theorem rw_not_written_by_transfer {w : Nat} {ds : List PinId} (hds : ds ⊆ pa.data.toList) (x : BitVec w) (l : Level) :
    Event.wr p l ∉ present ds x ++ pulse pa := by
  obtain ⟨hdata, -, hen⟩ := rw_distinct hd hp
  intro h
  obtain hm | hm := List.mem_append.1 h
  · exact hdata (hds (mem_of_present hm))
  · exact hen (eq_en_of_mem_pulse hm)

theorem rw_not_written_by_write4 (x : Nibble) (l : Level) : Event.wr p l ∉ write4 pa x :=
  rw_not_written_by_transfer hd hp (List.take_subset 4 _) x l

theorem rw_not_written_by_sendTransfers (v : Byte) (l : Level) : Event.wr p l ∉ sendTransfers pa v := by
  rw [sendTransfers]
  split
  · exact rw_not_written_by_transfer hd hp (List.take_subset 8 _) v l
  · rw [List.mem_append, not_or]
    exact ⟨rw_not_written_by_write4 hd hp _ l, rw_not_written_by_write4 hd hp _ l⟩

/-- Send writes read/write low and never high (R155). -/
theorem rw_not_high_in_send (v : Byte) (rs : Level) : Event.wr p true ∉ send pa v rs := by
  obtain ⟨-, hrs, -⟩ := rw_distinct hd hp
  rw [send_eq, List.mem_append, List.mem_cons, not_or, not_or]
  refine ⟨⟨fun he => ?_, fun hm => ?_⟩, rw_not_written_by_sendTransfers hd hp v true⟩
  · cases he
    exact hrs rfl
  · cases (mem_driveRwLow hm).2

/-- Of a program's units only a plain event can drive read/write high. -/
theorem rw_not_high_in_program {program : List Micro} (h : .emit (.wr p true) ∉ program) :
    Event.wr p true ∉ eventsOf (some pa) program := by
  intro hm
  obtain ⟨u, hu, he⟩ := List.mem_flatMap.1 hm
  cases u with
  | emit e =>
    obtain rfl := List.mem_singleton.1 he
    exact h hu
  | sendCommand v => exact rw_not_high_in_send hd hp v false he
  | sendCharacter v => exact rw_not_high_in_send hd hp v true he
  | write4 x => exact rw_not_written_by_write4 hd hp x true he

theorem level_send_rw (v : Byte) (rs : Level) (m : Memory) :
    Memory.level (applyEvents (send pa v rs) m) p = some false := by
  rw [send_eq, applyEvents_append, level_of_no_write (rw_not_written_by_sendTransfers hd hp v), driveRwLow, hp]
  simp

end ReadWrite

/-- A line that is low and that no event writes high stays low. -/
theorem level_stays_low {p : PinId} {es : List Event} {m : Memory} (h : Event.wr p true ∉ es)
    (hm : Memory.level m p = some false) : Memory.level (applyEvents es m) p = some false := by
  induction es generalizing m with
  | nil => exact hm
  | cons e es ih =>
    rw [List.mem_cons, not_or] at h
    obtain ⟨he, hes⟩ := h
    refine ih hes ?_
    cases e with
    | cfg q d => rwa [level_cfg]
    | delay n => exact hm
    | wr q l =>
      rw [level_wr]
      split
      · next hq => cases l <;> simp_all
      · exact hm

end Sys2Proof.Machine

/-!
PROOFS. Whole programs (41_initialization.md R131, 40_lifecycle.md R122, 70_reset_and_hazards.md R246, R255): the parts of INIT's
program, what they latch and leave, the events and delays of each command, what DISPOSE leaves, and the statements settled from
them.
-/

namespace Sys2Proof.Machine

/-! ## The parts of INIT's program -/

/-- Steps 2 to 4: the directions, the power-up delay, the lines low (R134, R135). -/
def initPrologue (pa : PinAssignment) : List Event :=
  directions pa .output ++ .delay timing.T_POWER :: .wr pa.rs false :: .wr pa.en false :: driveRwLow pa

/-- Steps 5 and 6: the priming transfers (R136). -/
def initPriming (c : LcdCodes) (pa : PinAssignment) (r : DataRegs) : List Micro :=
  if pa.data.is8 then
    [.sendCommand (functionSetByte c r.func), wait timing.T_INIT_LONG, .sendCommand (functionSetByte c r.func),
      wait timing.T_INIT_SHORT, .sendCommand (functionSetByte c r.func)]
  else
    [.write4 0x3, wait timing.T_INIT_LONG, .write4 0x3, wait timing.T_INIT_LONG, .write4 0x3, wait timing.T_INIT_SHORT,
      .write4 0x2]

/-- Steps 7 to 10: the four commands (R137, R138). -/
def initCommands (c : LcdCodes) (r : DataRegs) : List Micro :=
  [.sendCommand (functionSetByte c r.func), .sendCommand (displayControlByte c r.dctrl), .sendCommand c.CLEARDISPLAY,
    wait timing.T_CLEAR, .sendCommand (entryModeByte c r.emode)]

theorem initProgram_parts (c : LcdCodes) (pa : PinAssignment) (r : DataRegs) :
    initProgram c pa r = (initPrologue pa).map .emit ++ (initPriming c pa r ++ initCommands c r) := by
  cases h8 : pa.data.is8 <;>
    simp [initProgram, initStates, initProgramOf, initPrologue, initPriming, initCommands, wait, h8]

theorem eventsOf_initProgram (c : LcdCodes) (pa : PinAssignment) (r : DataRegs) :
    eventsOf (some pa) (initProgram c pa r) =
      initPrologue pa ++ (eventsOf (some pa) (initPriming c pa r) ++ eventsOf (some pa) (initCommands c r)) := by
  rw [initProgram_parts, eventsOf_append, eventsOf_append, eventsOf_map_emit]

theorem waitsOnly_initPriming (c : LcdCodes) (pa : PinAssignment) (r : DataRegs) : WaitsOnly (initPriming c pa r) := by
  unfold WaitsOnly initPriming
  split <;> simp [wait]

theorem sendsOrWaits_initCommands (c : LcdCodes) (r : DataRegs) : ∀ u ∈ initCommands c r, sendsOrWaits u = true := by
  simp [initCommands, sendsOrWaits, wait]

theorem eq_false_of_mem_initPrologue {pa : PinAssignment} {p : PinId} {l : Level} (h : Event.wr p l ∈ initPrologue pa) :
    l = false := by
  simp only [initPrologue, directions, List.mem_append, List.mem_map, List.mem_cons, reduceCtorEq, and_false, exists_false,
    Event.wr.injEq, false_or] at h
  obtain ⟨-, hl⟩ | ⟨-, hl⟩ | hm := h
  · exact hl
  · exact hl
  · exact (mem_driveRwLow hm).2

/-! ## What INIT latches -/

/-- Events that never raise enable latch nothing from lines on which it is not high. -/
theorem latched_without_rise {pa : PinAssignment} {es : List Event} {m : Memory} (h : Event.wr pa.en true ∉ es)
    (he : Memory.level m pa.en ≠ some true) : latched pa m es = [] := by
  induction es generalizing m with
  | nil => rfl
  | cons e es ih =>
    rw [List.mem_cons, not_or] at h
    obtain ⟨hrise, hes⟩ := h
    have stillLow : Memory.level (applyEvent e m) pa.en ≠ some true := by
      cases e with
      | cfg q d => rwa [level_cfg]
      | delay n => exact he
      | wr q l =>
        rw [level_wr]
        split
        · next hq => rintro ⟨⟩; exact hrise (by rw [hq])
        · exact he
    have notLatched : latches pa m e = false := by simp [latches, he]
    rw [latched, notLatched, if_neg Bool.false_ne_true, ih hes stillLow]

theorem latched_wait (pa : PinAssignment) (m : Memory) (n : DelayCount) (es : List Event) :
    latched pa m (.delay n :: es) = latched pa m es := rfl

/-- The prologue leaves enable and register-select low. -/
theorem low_after_prologue {pa : PinAssignment} (hd : DistinctPins pa) (m : Memory) :
    Memory.level (applyEvents (initPrologue pa) m) pa.en = some false ∧
      Memory.level (applyEvents (initPrologue pa) m) pa.rs = some false := by
  obtain ⟨-, hers, herw⟩ := en_distinct hd
  obtain ⟨-, -, hrrw⟩ := rs_distinct hd
  simp only [initPrologue, applyEvents_append, applyEvents_cons]
  rw [level_of_no_write fun _ h => herw _ (mem_driveRwLow h).1 rfl, level_of_no_write fun _ h => hrrw _ (mem_driveRwLow h).1 rfl]
  simp [hers.symm]

theorem latched_priming_eight {pa : PinAssignment} {m : Memory} (c : LcdCodes) (r : DataRegs) (hd : DistinctPins pa)
    (h8 : pa.data.is8 = true) (he : Memory.level m pa.en = some false) :
    latched pa m (eventsOf (some pa) (initPriming c pa r)) =
      List.replicate 3 (Transfer.ofValue false (functionSetByte c r.func)) := by
  rw [initPriming, if_pos h8, latched_program hd he (by simp [sendsOrWaits, wait])]
  simp [unitTransfers, wait, byteTransfers, h8, List.replicate]

theorem latched_priming_four {pa : PinAssignment} {m : Memory} (c : LcdCodes) (r : DataRegs) (hd : DistinctPins pa)
    (h8 : pa.data.is8 = false) (h : Selected pa false m) :
    latched pa m (eventsOf (some pa) (initPriming c pa r)) =
      [Transfer.ofValue false (0x3 : Nibble), Transfer.ofValue false (0x3 : Nibble), Transfer.ofValue false (0x3 : Nibble),
        Transfer.ofValue false (0x2 : Nibble)] := by
  have transfer : ∀ {m} (x : Nibble) (es : List Event), Selected pa false m → latched pa m (write4 pa x ++ es) =
      Transfer.ofValue false x :: latched pa (applyEvents (write4 pa x) m) es := by
    intro m x es hm
    rw [latched_append, latched_write4 hd h8 hm, List.singleton_append]
  have h1 := selected_write4 hd h8 h 0x3
  have h2 := selected_write4 hd h8 h1 0x3
  have h3 := selected_write4 hd h8 h2 0x3
  simp only [initPriming, h8, Bool.false_eq_true, if_false, wait, eventsOf_cons, eventsOf_nil, microEvents_write4,
    microEvents_emit, List.singleton_append]
  rw [transfer _ _ h, latched_wait, transfer _ _ h1, latched_wait, transfer _ _ h2, latched_wait, transfer _ _ h3, latched]

/-- Settles O25: the prologue latches nothing, then the priming transfers, then the bytes of the four commands. -/
theorem initLatchesItsPrimingAndFourCommands : Obligations.InitLatchesItsPrimingAndFourCommands := by
  intro columns lines dotSize pa s t hd hl he ht
  cases (exec_init_assigned columns lines dotSize hl).symm.trans ht
  obtain ⟨en, rs⟩ := low_after_prologue hd s.pins
  have en' := level_en_program (waitsOnly_initPriming s.codes pa (initRegs s.codes pa columns lines dotSize)) en
  have quiet : latched pa s.pins (initPrologue pa) = [] :=
    latched_without_rise (fun h => Bool.noConfusion (eq_false_of_mem_initPrologue h)) he
  have commands : latched pa _ (eventsOf (some pa) (initCommands s.codes (initRegs s.codes pa columns lines dotSize))) = _ :=
    latched_program hd en' (sendsOrWaits_initCommands _ _)
  rw [State.remaining, accept_life, accept_pending, pins_ready, eventsOf_initProgram, latched_append, quiet, latched_append,
    commands]
  cases h8 : pa.data.is8 with
  | true =>
    rw [latched_priming_eight _ _ hd h8 en, if_pos ((is8_iff pa).1 h8)]
    simp [initCommands, unitTransfers, wait, initRegs, displayControlByte, entryModeByte]
  | false =>
    have hn : pa.n ≠ 8 := fun hn => Bool.noConfusion (h8.symm.trans ((is8_iff pa).2 hn))
    rw [latched_priming_four _ _ hd h8 ⟨by rw [en]; decide, rs⟩, if_neg hn]
    simp [initCommands, unitTransfers, wait, initRegs, displayControlByte, entryModeByte]

/-! ## Read/write under every instruction -/

theorem not_emit_wr_of_waitsOnly {program : List Micro} {p : PinId} {l : Level} (h : WaitsOnly program) :
    .emit (.wr p l) ∉ program := by
  intro hm
  obtain ⟨n, hn⟩ := h _ hm
  cases hn

theorem rw_not_high_in_initProgram (c : LcdCodes) (pa : PinAssignment) (r : DataRegs) (p : PinId) :
    .emit (.wr p true) ∉ initProgram c pa r := by
  rw [initProgram_parts, List.mem_append, List.mem_append, not_or, not_or]
  refine ⟨fun h => ?_, not_emit_wr_of_waitsOnly (waitsOnly_initPriming c pa r),
    not_emit_wr_of_waitsOnly (waitsOnly_of_sendsOrWaits (sendsOrWaits_initCommands c r))⟩
  obtain ⟨e, he, heq⟩ := List.mem_map.1 h
  cases heq
  cases eq_false_of_mem_initPrologue he

/-- Settles O53: of every committed program, and of SendCommand, no event drives read/write high. -/
theorem readWriteIsNeverDrivenHigh : Obligations.ReadWriteIsNeverDrivenHigh := by
  intro s t pa p i hidle hl hd hp ht
  rw [mem_writesTo]
  obtain ⟨-, hc⟩ | ⟨-, rfl⟩ := exec_next_cases ht
  case inl =>
    cases hc with
    | refused e ho hr => exact List.not_mem_nil
    | construct rs rw en data hi hs => exact List.not_mem_nil
    | init pa' columns lines dotSize hi hs =>
      cases hl.symm.trans hs
      exact rw_not_high_in_program hd hp (rw_not_high_in_initProgram _ _ _ p)
    | dispose pa' hi hs =>
      rw [State.remaining, accept_pending, eventsOf_map_emit, directions]
      simp
    | sends pa' r program hs hprog =>
      rw [hs] at hl
      cases hl
      exact rw_not_high_in_program hd hp
        (not_emit_wr_of_waitsOnly (waitsOnly_of_sendsOrWaits (readyProgram_sendsOrWaits hprog)))
    | dctrl pa' r f hi hs =>
      rw [hs] at hl
      cases hl
      exact rw_not_high_in_program hd hp (by simp)
    | emode pa' r f hi hs =>
      rw [hs] at hl
      cases hl
      exact rw_not_high_in_program hd hp (by simp)
  case inr =>
    obtain ⟨-, hpending⟩ := hidle
    rw [sendLcd, callMicro_some hl, State.remaining, hpending, List.append_nil, eventsOf_map_emit]
    exact rw_not_high_in_send hd hp _ false

/-! ## Events and delays of each command -/

/-- The number of events and the sum of the delay counts of a list of events, on 4 lines and on 8. -/
def Measures (pa : PinAssignment) (es : List Event) (events4 delays4 events8 delays8 : Nat) : Prop :=
  es.length = (if pa.n = 8 then events8 else events4) ∧ delaySum es = if pa.n = 8 then delays8 else delays4

/-- The events and delays of a program under a Pin Assignment. -/
def ProgramMeasures (pa : PinAssignment) (program : List Micro) (events4 delays4 events8 delays8 : Nat) : Prop :=
  Measures pa (eventsOf (some pa) program) events4 delays4 events8 delays8

/-- One event more on every byte when read/write is present. -/
def rwCount (pa : PinAssignment) : Nat := if pa.rwen then 1 else 0

section Measures
variable {pa : PinAssignment} {es fs : List Event} {us : List Micro} {n4 d4 n8 d8 k4 e4 k8 e8 : Nat}

theorem measures_append (h : Measures pa es n4 d4 n8 d8) (h' : Measures pa fs k4 e4 k8 e8) :
    Measures pa (es ++ fs) (n4 + k4) (d4 + e4) (n8 + k8) (d8 + e8) := by
  obtain ⟨hlen, hsum⟩ := h
  obtain ⟨hlen', hsum'⟩ := h'
  constructor
  · rw [List.length_append, hlen, hlen']
    split <;> rfl
  · rw [delaySum_append, hsum, hsum']
    split <;> rfl

theorem measures_send (pa : PinAssignment) (v : Byte) (rs : Level) :
    Measures pa (send pa v rs) (21 + rwCount pa) 204 (15 + rwCount pa) 102 := by
  refine ⟨?_, delaySum_send pa v rs⟩
  rw [send_length, rwCount]
  by_cases h : pa.n = 8 <;> simp [h]

theorem programMeasures_nil (pa : PinAssignment) : ProgramMeasures pa [] 0 0 0 0 := by
  simp [ProgramMeasures, Measures, delaySum]

theorem measures_delay {n : DelayCount} {k : Nat} (hn : n.toNat = k) : Measures pa [.delay n] 1 k 1 k := by
  simp [Measures, delaySum, hn]

theorem programMeasures_wait {n : DelayCount} {k : Nat} (hn : n.toNat = k) (h : ProgramMeasures pa us n4 d4 n8 d8) :
    ProgramMeasures pa (wait n :: us) (1 + n4) (k + d4) (1 + n8) (k + d8) :=
  measures_append (measures_delay hn) h

theorem programMeasures_sendCommand (v : Byte) (h : ProgramMeasures pa us n4 d4 n8 d8) :
    ProgramMeasures pa (.sendCommand v :: us) (21 + rwCount pa + n4) (204 + d4) (15 + rwCount pa + n8) (102 + d8) :=
  measures_append (measures_send pa v false) h

theorem programMeasures_sendCharacter (v : Byte) (h : ProgramMeasures pa us n4 d4 n8 d8) :
    ProgramMeasures pa (.sendCharacter v :: us) (21 + rwCount pa + n4) (204 + d4) (15 + rwCount pa + n8) (102 + d8) :=
  measures_append (measures_send pa v true) h

/-- A raw nibble takes the first four data lines on either width (log 22). -/
theorem programMeasures_write4 (x : Nibble) (h : ProgramMeasures pa us n4 d4 n8 d8) :
    ProgramMeasures pa (.write4 x :: us) (10 + n4) (102 + d4) (10 + n8) (102 + d8) := by
  refine measures_append ⟨?_, ?_⟩ h
  · have four : min 4 pa.data.toList.length = 4 := by
      rw [toList_length]
      split <;> rfl
    rw [microEvents_write4, write4, List.length_append, present_length, pulse_length, List.length_take, four, ite_self]
  · rw [microEvents_write4, write4, delaySum_append, delaySum_present, delaySum_pulse, ite_self]

theorem programMeasures_text (pa : PinAssignment) (text : List Byte) : ProgramMeasures pa (text.map .sendCharacter)
    (text.length * (21 + rwCount pa)) (text.length * 204) (text.length * (15 + rwCount pa)) (text.length * 102) := by
  induction text with
  | nil => simpa using programMeasures_nil pa
  | cons v text ih =>
    have more : ∀ k, (text.length + 1) * k = k + text.length * k := fun k => by rw [Nat.succ_mul, Nat.add_comm]
    simpa only [List.map_cons, List.length_cons, more] using programMeasures_sendCharacter v ih

theorem measures_directions (pa : PinAssignment) (d : Dir) :
    Measures pa (directions pa d) (6 + rwCount pa) 0 (10 + rwCount pa) 0 := by
  have sum : ∀ ps : List PinId, delaySum (ps.map fun p => .cfg p d) = 0 := by
    intro ps
    induction ps with
    | nil => rfl
    | cons p ps ih => exact ih
  have rw_length : pa.rw.toList.length = rwCount pa := by
    unfold rwCount PinAssignment.rwen
    cases pa.rw <;> rfl
  constructor
  · simp only [directions, PinAssignment.owned, List.length_map, List.length_cons, List.length_append, toList_length, rw_length,
      is8_iff]
    split <;> omega
  · rw [directions, sum, ite_self]

theorem measures_of_eq (h : Measures pa es n4 d4 n8 d8) (hn4 : n4 = k4) (hd4 : d4 = e4) (hn8 : n8 = k8) (hd8 : d8 = e8) :
    Measures pa es k4 e4 k8 e8 := by
  subst hn4 hd4 hn8 hd8
  exact h

/-- On 8 lines only the figures for 8 lines matter. -/
theorem measures_of_eight (h8 : pa.data.is8 = true) (h : Measures pa es n4 d4 n8 d8) : Measures pa es k4 e4 n8 d8 := by
  simpa only [Measures, ← is8_iff, h8, if_true] using h

/-- On 4 lines only the figures for 4 lines matter. -/
theorem measures_of_four (h8 : pa.data.is8 = false) (h : Measures pa es n4 d4 n8 d8) : Measures pa es n4 d4 k8 e8 := by
  simpa only [Measures, ← is8_iff, h8, Bool.false_eq_true, if_false] using h

end Measures

section InitMeasures
variable (c : LcdCodes) (pa : PinAssignment) (r : DataRegs)

theorem measures_initPrologue : Measures pa (initPrologue pa) (9 + 2 * rwCount pa) 50000 (13 + 2 * rwCount pa) 50000 := by
  have lows : Measures pa (.wr pa.rs false :: .wr pa.en false :: driveRwLow pa) (2 + rwCount pa) 0 (2 + rwCount pa) 0 := by
    constructor
    · rw [List.length_cons, List.length_cons, driveRwLow_length, ← rwCount, ite_self]
      omega
    · simp [delaySum, delaySum_driveRwLow]
  have whole := measures_append (measures_directions pa .output)
    (measures_append (measures_delay (n := timing.T_POWER) (k := 50000) rfl) lows)
  exact measures_of_eq whole (by omega) (by omega) (by omega) (by omega)

theorem measures_initPriming :
    ProgramMeasures pa (initPriming c pa r) 43 9558 (47 + 3 * rwCount pa) 4956 := by
  have last := programMeasures_nil pa
  cases h8 : pa.data.is8 with
  | true =>
    have whole := programMeasures_sendCommand (functionSetByte c r.func)
      (programMeasures_wait (n := timing.T_INIT_LONG) (k := 4500) rfl
        (programMeasures_sendCommand (functionSetByte c r.func)
          (programMeasures_wait (n := timing.T_INIT_SHORT) (k := 150) rfl
            (programMeasures_sendCommand (functionSetByte c r.func) last))))
    rw [initPriming, if_pos h8]
    exact measures_of_eight h8 (measures_of_eq whole rfl rfl (by omega) (by omega))
  | false =>
    have whole := programMeasures_write4 0x3 (programMeasures_wait (n := timing.T_INIT_LONG) (k := 4500) rfl
      (programMeasures_write4 0x3 (programMeasures_wait (n := timing.T_INIT_LONG) (k := 4500) rfl
        (programMeasures_write4 0x3 (programMeasures_wait (n := timing.T_INIT_SHORT) (k := 150) rfl
          (programMeasures_write4 0x2 last))))))
    rw [initPriming, h8, if_neg Bool.false_ne_true]
    exact measures_of_four h8 whole

theorem measures_initCommands :
    ProgramMeasures pa (initCommands c r) (85 + 4 * rwCount pa) 2816 (61 + 4 * rwCount pa) 2408 := by
  have whole := programMeasures_sendCommand (functionSetByte c r.func) (programMeasures_sendCommand (displayControlByte c r.dctrl)
    (programMeasures_sendCommand c.CLEARDISPLAY (programMeasures_wait (n := timing.T_CLEAR) (k := 2000) rfl
      (programMeasures_sendCommand (entryModeByte c r.emode) (programMeasures_nil pa)))))
  exact measures_of_eq whole (by omega) (by omega) (by omega) (by omega)

theorem measures_initProgram :
    ProgramMeasures pa (initProgram c pa r) (137 + 6 * rwCount pa) 62374 (121 + 9 * rwCount pa) 57364 := by
  rw [ProgramMeasures, eventsOf_initProgram]
  have whole := measures_append (measures_initPrologue pa)
    (measures_append (measures_initPriming c pa r) (measures_initCommands c pa r))
  exact measures_of_eq whole (by omega) (by omega) (by omega) (by omega)

end InitMeasures

section Committed
variable {s t : State} {pa : PinAssignment} {n4 d4 n8 d8 : Nat} (hl : s.life.pins = some pa)
include hl

/-- A command of READY that leaves the engine busy has run in READY, under the Pin Assignment held. -/
theorem whenReady_of_busy {f : PinAssignment → DataRegs → State → State} (hb : (whenReady f s).busy = true) :
    ∃ r, s.life = .ready pa r ∧ whenReady f s = f pa r s := by
  obtain ⟨pa', r, hs, hf⟩ | ⟨-, hf⟩ := whenReady_cases f s
  · rw [hs] at hl
    cases hl
    exact ⟨r, hs, hf⟩
  · rw [hf] at hb
    cases hb

/-- What an accepted command of READY has to issue is its program's events. -/
theorem measures_whenReady {life : PinAssignment → DataRegs → State → Lifecycle}
    {program : PinAssignment → DataRegs → State → List Micro} (hlife : ∀ r, (life pa r s).pins = some pa)
    (hp : ∀ r, ProgramMeasures pa (program pa r s) n4 d4 n8 d8)
    (ht : whenReady (fun pa r s => accept (life pa r s) (program pa r s) s) s = t) (hb : t.busy = true) :
    Measures pa t.remaining n4 d4 n8 d8 := by
  subst ht
  obtain ⟨r, -, hf⟩ := whenReady_of_busy hl hb
  rw [hf, State.remaining, accept_life, accept_pending, hlife]
  exact hp r

end Committed

theorem programMeasures_one (pa : PinAssignment) (v : Byte) :
    ProgramMeasures pa [.sendCommand v] (21 + rwCount pa) 204 (15 + rwCount pa) 102 :=
  programMeasures_sendCommand v (programMeasures_nil pa)

theorem programMeasures_sendAndWait (pa : PinAssignment) (v : Byte) :
    ProgramMeasures pa [.sendCommand v, wait timing.T_CLEAR] (22 + rwCount pa) 2204 (16 + rwCount pa) 2102 := by
  have whole := programMeasures_sendCommand v (programMeasures_wait (n := timing.T_CLEAR) (k := 2000) rfl (programMeasures_nil pa))
  exact measures_of_eq whole (by omega) (by omega) (by omega) (by omega)

section Tabulated
variable {s t : State} {pa : PinAssignment} (hl : s.life.pins = some pa)
include hl

theorem measures_clear_home {i : Instr} (hi : i ∈ [Instr.clear, .home]) (ht : exec i s = .next t) (hb : t.busy = true) :
    Measures pa t.remaining (22 + rwCount pa) 2204 (16 + rwCount pa) 2102 := by
  simp only [List.mem_cons, List.not_mem_nil, or_false] at hi
  obtain rfl | rfl := hi
  · exact measures_whenReady hl (fun _ => rfl) (fun _ => programMeasures_sendAndWait pa _) (Host.Outcome.next.inj ht) hb
  · exact measures_whenReady hl (fun _ => rfl) (fun _ => programMeasures_sendAndWait pa _) (Host.Outcome.next.inj ht) hb

theorem measures_setCursor {col row : Byte} (ht : exec (.setCursor col row) s = .next t) (hb : t.busy = true) :
    Measures pa t.remaining (21 + rwCount pa) 204 (15 + rwCount pa) 102 := by
  obtain ⟨r, hs⟩ : ∃ r, s.life = .ready pa r := by
    cases Host.Outcome.next.inj ht
    obtain ⟨r, hs, -⟩ := whenReady_of_busy hl hb
    exact ⟨r, hs⟩
  cases hk : clampRow r.nlines row with
  | none =>
    cases (exec_setCursor_rowUnderflow col hs hk).symm.trans ht
    cases hb
  | some k =>
    cases (exec_setCursor_sends col hs hk).symm.trans ht
    rw [State.remaining, accept_life, accept_pending, hl]
    exact programMeasures_one pa _

theorem measures_one_byte_commands {i : Instr}
    (hi : i ∈ [Instr.scrollLeft, .scrollRight, .display, .noDisplay, .cursor, .noCursor, .blink, .noBlink, .leftToRight,
      .rightToLeft, .autoscroll, .noAutoscroll]) (ht : exec i s = .next t) (hb : t.busy = true) :
    Measures pa t.remaining (21 + rwCount pa) 204 (15 + rwCount pa) 102 := by
  rw [List.mem_cons, List.mem_cons] at hi
  obtain rfl | rfl | hflag := hi
  · exact measures_whenReady hl (fun _ => rfl) (fun _ => programMeasures_one pa _) (Host.Outcome.next.inj ht) hb
  · exact measures_whenReady hl (fun _ => rfl) (fun _ => programMeasures_one pa _) (Host.Outcome.next.inj ht) hb
  · obtain ⟨f, hf⟩ | ⟨f, hf⟩ := flag_command_cases s.codes hflag
    · rw [exec_of_mem_dctrlUpdates hf] at ht
      exact measures_whenReady hl (fun _ => rfl) (fun _ => programMeasures_one pa _) (Host.Outcome.next.inj ht) hb
    · rw [exec_of_mem_emodeUpdates hf] at ht
      exact measures_whenReady hl (fun _ => rfl) (fun _ => programMeasures_one pa _) (Host.Outcome.next.inj ht) hb

theorem measures_createChar {location : Byte} {bitmap : List Byte} (ht : exec (.createChar location bitmap) s = .next t)
    (hb : t.busy = true) :
    Measures pa t.remaining (9 * (21 + rwCount pa)) 1836 (9 * (15 + rwCount pa)) 918 := by
  obtain ⟨r, hs⟩ : ∃ r, s.life = .ready pa r := by
    cases Host.Outcome.next.inj ht
    obtain ⟨r, hs, -⟩ := whenReady_of_busy hl hb
    exact ⟨r, hs⟩
  by_cases h8 : bitmap.length = 8
  · cases (exec_createChar_sends location hs h8).symm.trans ht
    rw [State.remaining, accept_life, accept_pending, hl]
    have whole := programMeasures_sendCommand (setCgramByte s.codes location) (programMeasures_text pa bitmap)
    rw [h8] at whole
    exact measures_of_eq whole (by omega) (by omega) (by omega) (by omega)
  · cases (exec_createChar_invalidArgument location hs h8).symm.trans ht
    cases hb

theorem measures_print {text : List Byte} (ht : exec (.print text) s = .next t) (hb : t.busy = true) :
    Measures pa t.remaining (text.length * (21 + rwCount pa)) (text.length * 204) (text.length * (15 + rwCount pa))
      (text.length * 102) :=
  measures_whenReady hl (fun _ => rfl) (fun _ => programMeasures_text pa text) (Host.Outcome.next.inj ht) hb

end Tabulated

/-- Settles O43, command by command, each from the figures of the units of its program. -/
theorem commandsHaveTheTabulatedEventsAndDelays : Obligations.CommandsHaveTheTabulatedEventsAndDelays := by
  intro s t pa hl
  refine ⟨?init, fun _ => measures_clear_home hl, fun _ _ => measures_setCursor hl, fun _ => measures_one_byte_commands hl,
    fun _ _ => measures_createChar hl, fun _ => measures_print hl, ?dispose⟩
  case init =>
    intro columns lines dotSize ht hb
    cases (exec_init_assigned columns lines dotSize hl).symm.trans ht
    exact measures_initProgram s.codes pa _
  case dispose =>
    intro ht hb
    cases (exec_dispose_assigned hl).symm.trans ht
    rw [State.remaining, accept_pending, eventsOf_map_emit]
    exact measures_directions pa .input

/-! ## What DISPOSE leaves -/

/-- Direction requests set the direction of each line they name, and no other. -/
theorem dir_of_directions (ps : List PinId) (d : Dir) (m : Memory) (p : PinId) :
    Memory.dir (applyEvents (ps.map fun q => .cfg q d) m) p = if p ∈ ps then some d else Memory.dir m p := by
  induction ps generalizing m with
  | nil => rfl
  | cons q ps ih =>
    rw [List.map_cons, applyEvents_cons, ih, dir_cfg]
    by_cases hq : p = q <;> simp [hq]

/-- Settles O22: the program of DISPOSE run to its end, and the latches after its direction requests. -/
theorem disposeLeavesAFreshEngine : Obligations.DisposeLeavesAFreshEngine := by
  intro s pa hr hl
  have remaining : (accept .unconfigured ((directions pa .input).map .emit) s).remaining = directions pa .input := by
    rw [State.remaining, accept_pending, eventsOf_map_emit]
  have run := runSteps_stepsToIdle (s := accept .unconfigured ((directions pa .input).map .emit) s) hr rfl
    (fun _ m hm => by obtain ⟨e, -, rfl⟩ := List.mem_map.1 hm; rfl)
  refine ⟨_, _, _, exec_dispose_assigned hl, run, ?state, ?owned, ?others, ?levels⟩
  case state => simp [complete, State.issued, accept, State.reset, hr]
  all_goals
    intro p
    simp only [complete_pins, State.issued, remaining, accept_pins]
  case owned =>
    intro hp
    rw [directions, dir_of_directions, if_pos hp]
  case others =>
    intro hp
    rw [directions, dir_of_directions, if_neg hp]
  case levels => exact level_of_no_write (fun _ hm => by simp [directions] at hm) s.pins

end Sys2Proof.Machine

/-!
PROOFS. The invariants of the machine (10_state.md R30, R31, 44_flag_commands.md R191, 42_transfer_primitives.md R160): reset
meets them and every step keeps them.
-/

namespace Sys2Proof.Machine

/-! ## Registers within their flags -/

/-- A register has no bit outside a mask exactly if the mask has every bit of it. -/
theorem and_not_eq_zero_iff {x mask : Byte} :
    x &&& ~~~mask = 0 ↔ ∀ k, x.getLsbD k = true → mask.getLsbD k = true := by
  constructor
  · intro h k hk
    have hbit : (x &&& ~~~mask).getLsbD k = false := by rw [h]; exact BitVec.getLsbD_zero
    have hlt : k < 8 := BitVec.lt_of_getLsbD hk
    simpa [hk, hlt] using hbit
  · intro h
    refine BitVec.eq_of_getLsbD_eq fun k hlt => ?_
    cases hx : x.getLsbD k with
    | false => simp [hx]
    | true => simp [hx, hlt, h k hx]

theorem setFlag_within {x bit mask : Byte} (hx : x &&& ~~~mask = 0) (hb : bit &&& ~~~mask = 0) :
    setFlag x bit &&& ~~~mask = 0 := by
  rw [and_not_eq_zero_iff] at hx hb ⊢
  intro k hk
  rw [setFlag, BitVec.getLsbD_or, Bool.or_eq_true] at hk
  exact hk.elim (hx k) (hb k)

theorem clearFlag_within {x mask : Byte} (hx : x &&& ~~~mask = 0) (bit : Byte) : clearFlag x bit &&& ~~~mask = 0 := by
  rw [and_not_eq_zero_iff] at hx ⊢
  intro k hk
  rw [clearFlag, BitVec.getLsbD_and, Bool.and_eq_true] at hk
  exact hx k hk.1

theorem or_left_within (x y : Byte) : x &&& ~~~(x ||| y) = 0 :=
  and_not_eq_zero_iff.2 fun k hk => by simp [hk]

theorem or_right_within (x y : Byte) : y &&& ~~~(x ||| y) = 0 :=
  and_not_eq_zero_iff.2 fun k hk => by simp [hk]

theorem display_on_within (c : LcdCodes) : c.DISPLAY_ON &&& ~~~(c.DISPLAY_ON ||| c.CURSOR_ON ||| c.BLINK_ON) = 0 :=
  and_not_eq_zero_iff.2 fun k hk => by simp [hk]

theorem cursor_on_within (c : LcdCodes) : c.CURSOR_ON &&& ~~~(c.DISPLAY_ON ||| c.CURSOR_ON ||| c.BLINK_ON) = 0 :=
  and_not_eq_zero_iff.2 fun k hk => by simp [hk]

/-- Each display-control command keeps DCTRL within its three flags (10_state.md R21). -/
theorem dctrlUpdates_within {c : LcdCodes} {i : Instr} {f : Byte → Byte} (hf : (i, f) ∈ dctrlUpdates c) {v : Byte}
    (hv : v &&& ~~~(c.DISPLAY_ON ||| c.CURSOR_ON ||| c.BLINK_ON) = 0) :
    f v &&& ~~~(c.DISPLAY_ON ||| c.CURSOR_ON ||| c.BLINK_ON) = 0 := by
  simp only [dctrlUpdates, List.mem_cons, List.not_mem_nil, or_false, Prod.mk.injEq] at hf
  obtain ⟨-, rfl⟩ | ⟨-, rfl⟩ | ⟨-, rfl⟩ | ⟨-, rfl⟩ | ⟨-, rfl⟩ | ⟨-, rfl⟩ := hf
  · exact setFlag_within hv (display_on_within c)
  · exact clearFlag_within hv c.DISPLAY_ON
  · exact setFlag_within hv (cursor_on_within c)
  · exact clearFlag_within hv c.CURSOR_ON
  · exact setFlag_within hv (or_right_within _ c.BLINK_ON)
  · exact clearFlag_within hv c.BLINK_ON

/-- Each entry-mode command keeps EMODE within its two flags (10_state.md R22). -/
theorem emodeUpdates_within {c : LcdCodes} {i : Instr} {f : Byte → Byte} (hf : (i, f) ∈ emodeUpdates c) {v : Byte}
    (hv : v &&& ~~~(c.ENTRY_LEFT ||| c.ENTRY_SHIFT) = 0) : f v &&& ~~~(c.ENTRY_LEFT ||| c.ENTRY_SHIFT) = 0 := by
  simp only [emodeUpdates, List.mem_cons, List.not_mem_nil, or_false, Prod.mk.injEq] at hf
  obtain ⟨-, rfl⟩ | ⟨-, rfl⟩ | ⟨-, rfl⟩ | ⟨-, rfl⟩ := hf
  · exact setFlag_within hv (or_left_within c.ENTRY_LEFT _)
  · exact clearFlag_within hv c.ENTRY_LEFT
  · exact setFlag_within hv (or_right_within _ c.ENTRY_SHIFT)
  · exact clearFlag_within hv c.ENTRY_SHIFT

theorem regsOk_initRegs (c : LcdCodes) (pa : PinAssignment) (columns lines dotSize : Byte) :
    RegsOk c pa (initRegs c pa columns lines dotSize) where
  func_flags := ⟨dotSize, rfl⟩
  dctrl_flags := display_on_within c
  emode_flags := or_left_within c.ENTRY_LEFT c.ENTRY_SHIFT
  rowoff_table := ⟨columns, rfl⟩

theorem regsOk_dctrl {c : LcdCodes} {pa : PinAssignment} {r : DataRegs} {i : Instr} {f : Byte → Byte} (h : RegsOk c pa r)
    (hf : (i, f) ∈ dctrlUpdates c) : RegsOk c pa { r with dctrl := f r.dctrl } :=
  ⟨h.func_flags, dctrlUpdates_within hf h.dctrl_flags, h.emode_flags, h.rowoff_table⟩

theorem regsOk_emode {c : LcdCodes} {pa : PinAssignment} {r : DataRegs} {i : Instr} {f : Byte → Byte} (h : RegsOk c pa r)
    (hf : (i, f) ∈ emodeUpdates c) : RegsOk c pa { r with emode := f r.emode } :=
  ⟨h.func_flags, h.dctrl_flags, emodeUpdates_within hf h.emode_flags, h.rowoff_table⟩

/-! ## The default codes -/

/-- N and F exclude each other: one asks for more than one line, the other for at most one (R133). -/
theorem not_two_lines_and_tall (pa : PinAssignment) (lines dotSize : Byte) :
    ((functionFlags lcdCodes pa lines dotSize).getLsbD 3 && (functionFlags lcdCodes pa lines dotSize).getLsbD 2) = false := by
  obtain ⟨-, hn, hf, -⟩ := initComputesTheFunctionFlags pa lines dotSize
  rw [Bool.and_eq_false_iff, ← Bool.not_eq_true, ← Bool.not_eq_true, hn, hf]
  omega

/-- With the default codes, registers within their flags have every field at its bits. -/
theorem fieldsOk_of_regsOk {pa : PinAssignment} {r : DataRegs} (h : RegsOk lcdCodes pa r) : FieldsOk pa r := by
  obtain ⟨⟨dotSize, hfunc⟩, hdctrl, hemode, -⟩ := h
  obtain ⟨hdl, hn, -, unused⟩ := initComputesTheFunctionFlags pa r.nlines dotSize
  exact {
    func_unused := by rw [hfunc, unused]
    func_dl := by rw [hfunc, Bool.eq_iff_iff, hdl, is8_iff]
    func_n := by rw [hfunc, Bool.eq_iff_iff, hn, decide_eq_true_iff]
    func_nf := by rw [hfunc, not_two_lines_and_tall]
    dctrl_unused := hdctrl
    emode_unused := hemode }

theorem engineCommand_of_decodeLcd {v : Byte} {i : Instr} (h : decodeLcd v = some i) (hw : i.wf = true) : EngineCommand v := by
  obtain ⟨hs, he⟩ := decodeLcd_eq_some_iff.1 h
  exact ⟨i, hs, hw, he⟩

/-- A slot's address has its low three bits 0 (30_encoding.md R94). -/
theorem wf_slot_address (location : Byte) : (Instr.lcdSetCgramAddr (BitVec.ofNat 6 (8 * (location.toNat % 8)))).wf = true := by
  revert location
  decide

/-- With the default codes every assembled byte is that of a well-formed LCD command. -/
theorem engineCommand_of_assembledByte {v : Byte} (h : AssembledByte lcdCodes v) : EngineCommand v := by
  cases h with
  | clearDisplay => exact ⟨.lcdClearDisplay, rfl, rfl, rfl⟩
  | returnHome => exact ⟨.lcdReturnHome, rfl, rfl, rfl⟩
  | functionSet pa lines dotSize =>
    obtain ⟨-, -, -, unused⟩ := initComputesTheFunctionFlags pa lines dotSize
    refine engineCommand_of_decodeLcd (decodeLcd_functionSetByte unused) ?_
    rw [Instr.wf, not_two_lines_and_tall, Bool.not_false]
  | displayControl dctrl h => exact engineCommand_of_decodeLcd (decodeLcd_displayControlByte h) rfl
  | entryMode emode h => exact engineCommand_of_decodeLcd (decodeLcd_entryModeByte h) rfl
  | setDdramAddr col offset => exact engineCommand_of_decodeLcd (decodeLcd_setDdramByte col offset) rfl
  | setCgramAddr location => exact engineCommand_of_decodeLcd (decodeLcd_setCgramByte location) (wf_slot_address location)
  | shiftLeft => exact ⟨.lcdCursorShift true false, rfl, rfl, rfl⟩
  | shiftRight => exact ⟨.lcdCursorShift true true, rfl, rfl, rfl⟩

/-! ## The invariant -/

/-- The invariant from its parts that hold for every codes record: the fields and layouts follow. -/
theorem invariant_of_parts {s : State} (pins_wf : Memory.wf s.pins = true)
    (regs_ok : ∀ pa r, s.life = .ready pa r → RegsOk s.codes pa r) (idle : s.busy = false → s.pending = [])
    (assigned : s.life.pins = none → ∀ m ∈ s.pending, isCall m = false)
    (commands : ∀ v, .sendCommand v ∈ s.pending → AssembledByte s.codes v) (no_range : s.err ≠ .rangeError) : Invariant s where
  pins_wf := pins_wf
  regs_ok := regs_ok
  fields hc pa r hl := fieldsOk_of_regsOk (hc ▸ regs_ok pa r hl)
  idle := idle
  assigned := assigned
  commands := commands
  layouts hc v hv := engineCommand_of_assembledByte (hc ▸ commands v hv)
  no_range := no_range

section Keeps
variable {s : State} (inv : Invariant s)
include inv

theorem invariant_raise {e : ResultCode} (he : e ≠ .rangeError) : Invariant (raise e s) :=
  invariant_of_parts inv.pins_wf inv.regs_ok (fun _ => rfl) (fun _ => List.forall_mem_nil _)
    (fun _ hv => absurd hv List.not_mem_nil) he

theorem invariant_accept {life : Lifecycle} {program : List Micro} (regs : ∀ pa r, life = .ready pa r → RegsOk s.codes pa r)
    (assigned : life.pins = none → ∀ m ∈ program, isCall m = false)
    (commands : ∀ v, .sendCommand v ∈ program → AssembledByte s.codes v) : Invariant (accept life program s) :=
  invariant_of_parts inv.pins_wf regs nofun assigned commands inv.no_range

theorem invariant_hostIn (rest : List Beat) : Invariant { s with hostIn := rest } :=
  invariant_of_parts inv.pins_wf inv.regs_ok inv.idle inv.assigned inv.commands inv.no_range

end Keeps

theorem readyProgram_assembled {c : LcdCodes} {program : List Micro} (h : ReadyProgram c program) :
    ∀ v, .sendCommand v ∈ program → AssembledByte c v := by
  intro v hv
  cases h with
  | clear =>
    obtain rfl : v = c.CLEARDISPLAY := by simpa [wait] using hv
    exact .clearDisplay
  | home =>
    obtain rfl : v = c.RETURNHOME := by simpa [wait] using hv
    exact .returnHome
  | setCursor col offset =>
    obtain rfl : v = setDdramByte c col offset := by simpa using hv
    exact .setDdramAddr col offset
  | scrollLeft =>
    obtain rfl : v = shiftLeftByte c := by simpa using hv
    exact .shiftLeft
  | scrollRight =>
    obtain rfl : v = shiftRightByte c := by simpa using hv
    exact .shiftRight
  | createChar location bitmap =>
    obtain rfl : v = setCgramByte c location := by simpa using hv
    exact .setCgramAddr location
  | print text => simp at hv

theorem initProgram_assembled (c : LcdCodes) (pa : PinAssignment) (columns lines dotSize : Byte) :
    ∀ v, .sendCommand v ∈ initProgram c pa (initRegs c pa columns lines dotSize) → AssembledByte c v := by
  intro v hv
  have function : AssembledByte c (functionSetByte c (functionFlags c pa lines dotSize)) := .functionSet pa lines dotSize
  rw [initProgram_parts, List.mem_append, List.mem_append] at hv
  obtain hv | hv | hv := hv
  · simp at hv
  · obtain rfl : v = functionSetByte c (functionFlags c pa lines dotSize) := by
      unfold initPriming at hv
      split at hv
      · simpa [wait, initRegs] using hv
      · simp [wait] at hv
    exact function
  · simp only [initCommands, wait, initRegs, List.mem_cons, Micro.sendCommand.injEq, reduceCtorEq, List.not_mem_nil, false_or,
      or_false] at hv
    obtain rfl | rfl | rfl | rfl := hv
    · exact function
    · exact .displayControl _ (display_on_within c)
    · exact .clearDisplay
    · exact .entryMode _ (or_left_within c.ENTRY_LEFT c.ENTRY_SHIFT)

/-- Every host operation keeps the invariant. -/
theorem Commits.keeps_invariant {i : Instr} {s t : State} (h : Commits i s t) (inv : Invariant s) : Invariant t := by
  cases h with
  | refused e ho hr => exact invariant_raise inv hr
  | construct rs rw en data hi hl =>
    exact invariant_accept inv nofun nofun fun _ hv => absurd hv List.not_mem_nil
  | init pa columns lines dotSize hi hl =>
    refine invariant_accept inv ?_ nofun (initProgram_assembled s.codes pa columns lines dotSize)
    rintro _ _ ⟨⟩
    exact regsOk_initRegs s.codes pa columns lines dotSize
  | dispose pa hi hl =>
    refine invariant_accept inv nofun (fun _ m hm => ?_) fun v hv => ?_
    · obtain ⟨e, -, rfl⟩ := List.mem_map.1 hm
      rfl
    · simp at hv
  | sends pa r program hl hp =>
    exact invariant_accept inv (fun pa' r' hl' => inv.regs_ok pa' r' (hl.trans hl')) nofun (readyProgram_assembled hp)
  | dctrl pa r f hi hl =>
    have regs := regsOk_dctrl (inv.regs_ok pa r hl) hi
    refine invariant_accept inv ?_ nofun fun v hv => ?_
    · rintro _ _ ⟨⟩
      exact regs
    · obtain rfl : v = displayControlByte s.codes (f r.dctrl) := by simpa using hv
      exact .displayControl _ regs.dctrl_flags
  | emode pa r f hi hl =>
    have regs := regsOk_emode (inv.regs_ok pa r hl) hi
    refine invariant_accept inv ?_ nofun fun v hv => ?_
    · rintro _ _ ⟨⟩
      exact regs
    · obtain rfl : v = entryModeByte s.codes (f r.emode) := by simpa using hv
      exact .entryMode _ regs.emode_flags

theorem invariant_applyReset (s : State) : Invariant (applyReset s) :=
  invariant_of_parts rfl nofun (fun _ => rfl) (fun _ => List.forall_mem_nil _) (fun _ hv => absurd hv List.not_mem_nil) nofun

/-- Every kind of step keeps the invariant. -/
theorem StepsTo.keeps_invariant {s t : State} (h : StepsTo s t) (inv : Invariant s) : Invariant t := by
  cases h with
  | resets hr => exact invariant_applyReset s
  | waits hr hb => exact inv
  | takes i rest t hr hb hc => exact hc.keeps_invariant (invariant_hostIn inv rest)
  | completes hr hb hp =>
    exact invariant_of_parts inv.pins_wf inv.regs_ok (fun _ => hp) inv.assigned inv.commands nofun
  | issues e ms hr hb hp =>
    have rest : ∀ m ∈ ms, m ∈ s.pending := fun m hm => hp ▸ List.mem_cons_of_mem _ hm
    exact invariant_of_parts (wf_applyEvent inv.pins_wf e) inv.regs_ok (fun hb' => Bool.noConfusion (hb.symm.trans hb'))
      (fun hl m hm => inv.assigned hl m (rest m hm)) (fun v hv => inv.commands v (rest _ hv)) inv.no_range
  | calls pa m ms hr hb hl hp hm =>
    refine invariant_of_parts inv.pins_wf inv.regs_ok (fun hb' => Bool.noConfusion (hb.symm.trans hb'))
      (fun hl' => Option.noConfusion rfl (heq_of_eq (hl.symm.trans hl'))) (fun v hv => ?_) inv.no_range
    obtain hv | hv := List.mem_append.1 hv
    · simp at hv
    · exact inv.commands v (hp ▸ List.mem_cons_of_mem _ hv)
  | refusesCall m ms hr hb hl hp hm =>
    have noCall := inv.assigned hl m (hp ▸ List.mem_cons_self)
    exact Bool.noConfusion (hm.symm.trans noCall)

/-- Settles O50, by the kinds of steps, and for a packet by what each host operation commits. -/
theorem everyStepKeepsTheInvariant : Obligations.EveryStepKeepsTheInvariant :=
  fun _ _ inv h => (stepsTo_of_step h).keeps_invariant inv

end Sys2Proof.Machine

/-!
PROOFS. The mirror of the flag registers (10_state.md R30) and the lines at rest (42_transfer_primitives.md R160): what a command
in progress does not change, what each commit makes of them, and the statements settled from it.
-/

namespace Sys2Proof.Machine

/-! ## Within a command -/

/-- A step within a command: the registers, all events sent and still to send, and the latches at the end are as before. -/
structure SameCourse (s t : State) : Prop where
  codes : t.codes = s.codes
  life : t.life = s.life
  events : t.trace ++ t.remaining = s.trace ++ s.remaining
  latches : applyEvents t.remaining t.pins = applyEvents s.remaining s.pins

theorem remaining_of_idle {s : State} (inv : Invariant s) (hb : s.busy = false) : s.remaining = [] := by
  rw [State.remaining, inv.idle hb, eventsOf_nil]

/-- A step resets the engine, commits a packet of an idle engine, or goes on within a command. -/
theorem StepsTo.course {s t : State} (h : StepsTo s t) (inv : Invariant s) :
    t = applyReset s ∨ (∃ i rest, s.busy = false ∧ Commits i { s with hostIn := rest } t) ∨ SameCourse s t := by
  cases h with
  | resets hr => exact .inl rfl
  | waits hr hb => exact .inr (.inr ⟨rfl, rfl, rfl, rfl⟩)
  | takes i rest t hr hb hc => exact .inr (.inl ⟨i, rest, hb, hc⟩)
  | completes hr hb hp => exact .inr (.inr ⟨rfl, rfl, rfl, rfl⟩)
  | issues e ms hr hb hp =>
    have remaining : s.remaining = e :: eventsOf s.life.pins ms := by
      rw [State.remaining, hp, eventsOf_cons, microEvents_emit, List.singleton_append]
    refine .inr (.inr ⟨rfl, rfl, ?_, ?_⟩)
    · rw [remaining, issue_trace, List.append_assoc]
      rfl
    · rw [remaining, applyEvents_cons]
      rfl
  | calls pa m ms hr hb hl hp hm =>
    have remaining : State.remaining { s with pending := (microEvents (some pa) m).map .emit ++ ms } = s.remaining := by
      simp only [State.remaining, hp, hl, eventsOf_append, eventsOf_map_emit, eventsOf_cons]
    refine .inr (.inr ⟨rfl, rfl, ?_, ?_⟩)
    · rw [remaining]
    · rw [remaining]
  | refusesCall m ms hr hb hl hp hm =>
    have noCall := inv.assigned hl m (hp ▸ List.mem_cons_self)
    exact Bool.noConfusion (hm.symm.trans noCall)

/-! ## The kinds of command bytes, with the default codes -/

theorem kinds_functionSetByte {func : Byte} (h : func &&& 0xE3 = 0) :
    isFunctionSet (functionSetByte lcdCodes func) = true ∧ isDisplayControl (functionSetByte lcdCodes func) = false ∧
      isEntryModeSet (functionSetByte lcdCodes func) = false := by
  revert func
  decide

theorem kinds_displayControlByte {dctrl : Byte} (h : dctrl &&& 0xF8 = 0) :
    isFunctionSet (displayControlByte lcdCodes dctrl) = false ∧ isDisplayControl (displayControlByte lcdCodes dctrl) = true ∧
      isEntryModeSet (displayControlByte lcdCodes dctrl) = false := by
  revert dctrl
  decide

theorem kinds_entryModeByte {emode : Byte} (h : emode &&& 0xFC = 0) :
    isFunctionSet (entryModeByte lcdCodes emode) = false ∧ isDisplayControl (entryModeByte lcdCodes emode) = false ∧
      isEntryModeSet (entryModeByte lcdCodes emode) = true := by
  revert emode
  decide

/-- A unit that sends no function-set, display-control or entry-mode byte. -/
def SendsNoFlags (u : Micro) : Prop :=
  sendsNone isFunctionSet u = true ∧ sendsNone isDisplayControl u = true ∧ sendsNone isEntryModeSet u = true

theorem sendsNoFlags_wait (n : DelayCount) : SendsNoFlags (wait n) := ⟨rfl, rfl, rfl⟩

theorem sendsNoFlags_sendCharacter (v : Byte) : SendsNoFlags (.sendCharacter v) := ⟨rfl, rfl, rfl⟩

theorem sendsNoFlags_setDdram (col offset : Byte) : SendsNoFlags (.sendCommand (setDdramByte lcdCodes col offset)) := by
  rw [setDdramByte]
  generalize col + offset = sum
  revert sum
  unfold SendsNoFlags
  decide

theorem sendsNoFlags_setCgram (location : Byte) : SendsNoFlags (.sendCommand (setCgramByte lcdCodes location)) := by
  revert location
  unfold SendsNoFlags
  decide

/-- A command of READY that writes no register sends no flag register either. -/
theorem readyProgram_sendsNoFlags {program : List Micro} (h : ReadyProgram lcdCodes program) :
    ∀ u ∈ program, SendsNoFlags u := by
  have characters : ∀ text : List Byte, ∀ u ∈ text.map Micro.sendCharacter, SendsNoFlags u := by
    intro text u hu
    obtain ⟨v, -, rfl⟩ := List.mem_map.1 hu
    exact sendsNoFlags_sendCharacter v
  cases h with
  | clear => exact List.forall_mem_cons.2 ⟨⟨rfl, rfl, rfl⟩, List.forall_mem_singleton.2 (sendsNoFlags_wait _)⟩
  | home => exact List.forall_mem_cons.2 ⟨⟨rfl, rfl, rfl⟩, List.forall_mem_singleton.2 (sendsNoFlags_wait _)⟩
  | setCursor col offset => exact List.forall_mem_singleton.2 (sendsNoFlags_setDdram col offset)
  | scrollLeft => exact List.forall_mem_singleton.2 ⟨rfl, rfl, rfl⟩
  | scrollRight => exact List.forall_mem_singleton.2 ⟨rfl, rfl, rfl⟩
  | createChar location bitmap => exact List.forall_mem_cons.2 ⟨sendsNoFlags_setCgram location, characters bitmap⟩
  | print text => exact characters text

/-! ## The mirror -/

section LastCommand
variable {pa : PinAssignment} {kind : Byte → Bool} {v : Byte} {es : List Event} {program : List Micro}

/-- Units that send no byte of the kind leave its last byte the last. -/
theorem lastCommandIs_append (h : LastCommandIs pa kind v es) (hp : ∀ u ∈ program, sendsNone kind u = true) :
    LastCommandIs pa kind v (es ++ eventsOf (some pa) program) := by
  obtain ⟨hkind, before, after, rfl, hafter⟩ := h
  refine ⟨hkind, before, after ++ program, by simp, fun u hu => ?_⟩
  exact (List.mem_append.1 hu).elim (hafter u) (hp u)

/-- A byte of the kind, sent before units that send none, is the last, whatever was sent first. -/
theorem lastCommandIs_of_sends (first : List Micro) (hkind : kind v = true) (hp : ∀ u ∈ program, sendsNone kind u = true) :
    LastCommandIs pa kind v (es ++ eventsOf (some pa) (first ++ .sendCommand v :: program)) :=
  ⟨hkind, es ++ eventsOf (some pa) first, program, by simp, hp⟩

end LastCommand

/-- The mirror of the registers over a list of events: its three last flag bytes are those of the registers. -/
def Mirrors (pa : PinAssignment) (r : DataRegs) (es : List Event) : Prop :=
  LastCommandIs pa isFunctionSet (functionSetByte lcdCodes r.func) es ∧
    LastCommandIs pa isDisplayControl (displayControlByte lcdCodes r.dctrl) es ∧
    LastCommandIs pa isEntryModeSet (entryModeByte lcdCodes r.emode) es

theorem mirror_iff {s : State} : Mirror s ↔
    (DefaultCodes s → ∀ pa r, s.life = .ready pa r → Mirrors pa r (s.trace ++ s.remaining)) := by
  refine forall_congr' fun hc => forall₃_congr fun pa r hl => ?_
  rw [Mirrors, hc]
  rfl

section Mirrors
variable {pa : PinAssignment} {r : DataRegs} {es : List Event} {program : List Micro}

theorem Mirrors.append (h : Mirrors pa r es) (hp : ∀ u ∈ program, SendsNoFlags u) :
    Mirrors pa r (es ++ eventsOf (some pa) program) := by
  obtain ⟨func, dctrl, emode⟩ := h
  refine ⟨lastCommandIs_append func fun u hu => ?_, lastCommandIs_append dctrl fun u hu => ?_,
    lastCommandIs_append emode fun u hu => ?_⟩
  all_goals
    obtain ⟨hf, hd, he⟩ := hp u hu
    assumption

/-- Sending the new DCTRL mirrors it. -/
theorem Mirrors.with_dctrl (h : Mirrors pa r es) {dctrl : Byte} (hd : dctrl &&& 0xF8 = 0) :
    Mirrors pa { r with dctrl := dctrl } (es ++ eventsOf (some pa) [.sendCommand (displayControlByte lcdCodes dctrl)]) := by
  obtain ⟨func, -, emode⟩ := h
  obtain ⟨notFunc, isDctrl, notEmode⟩ := kinds_displayControlByte hd
  exact ⟨lastCommandIs_append func (by simp [sendsNone, notFunc]), lastCommandIs_of_sends [] isDctrl (List.forall_mem_nil _),
    lastCommandIs_append emode (by simp [sendsNone, notEmode])⟩

/-- Sending the new EMODE mirrors it. -/
theorem Mirrors.with_emode (h : Mirrors pa r es) {emode : Byte} (he : emode &&& 0xFC = 0) :
    Mirrors pa { r with emode := emode } (es ++ eventsOf (some pa) [.sendCommand (entryModeByte lcdCodes emode)]) := by
  obtain ⟨func, dctrl, -⟩ := h
  obtain ⟨notFunc, notDctrl, isEmode⟩ := kinds_entryModeByte he
  exact ⟨lastCommandIs_append func (by simp [sendsNone, notFunc]), lastCommandIs_append dctrl (by simp [sendsNone, notDctrl]),
    lastCommandIs_of_sends [] isEmode (List.forall_mem_nil _)⟩

/-- The four commands of INIT send all three registers, so whatever was sent before does not matter (R138). -/
theorem mirrors_initCommands (h : FieldsOk pa r) : Mirrors pa r (es ++ eventsOf (some pa) (initCommands lcdCodes r)) := by
  obtain ⟨isFunc, -, -⟩ := kinds_functionSetByte h.func_unused
  obtain ⟨notFunc, isDctrl, -⟩ := kinds_displayControlByte h.dctrl_unused
  obtain ⟨notFunc', notDctrl, isEmode⟩ := kinds_entryModeByte h.emode_unused
  have clear : isFunctionSet lcdCodes.CLEARDISPLAY = false ∧ isDisplayControl lcdCodes.CLEARDISPLAY = false := ⟨rfl, rfl⟩
  obtain ⟨clearFunc, clearDctrl⟩ := clear
  refine ⟨lastCommandIs_of_sends [] isFunc ?_, lastCommandIs_of_sends [.sendCommand (functionSetByte lcdCodes r.func)] isDctrl ?_,
    lastCommandIs_of_sends [.sendCommand (functionSetByte lcdCodes r.func), .sendCommand (displayControlByte lcdCodes r.dctrl),
      .sendCommand lcdCodes.CLEARDISPLAY, wait timing.T_CLEAR] isEmode (List.forall_mem_nil _)⟩
  · simp [sendsNone, wait, notFunc, notFunc', clearFunc]
  · simp [sendsNone, wait, notDctrl, clearDctrl]

end Mirrors

/-- What an idle engine commits keeps the mirror: INIT sends all three registers, a flag command the one it writes, and every
other command none. -/
theorem Commits.keeps_mirror {i : Instr} {s t : State} (h : Commits i s t) (inv : Invariant s) (hb : s.busy = false)
    (hm : Mirror s) : Mirror t := by
  have inv' := h.keeps_invariant inv
  rw [mirror_iff, remaining_of_idle inv hb, List.append_nil] at hm
  rw [mirror_iff]
  intro hc pa r hl
  have hcs : s.codes = lcdCodes := by
    obtain ⟨codes, -⟩ := h.frame
    exact codes.symm.trans hc
  have fields := inv'.fields hc pa r hl
  cases h with
  | refused e ho hr =>
    rw [State.remaining, raise_pending, eventsOf_nil, List.append_nil]
    exact hm hcs pa r hl
  | construct rs rw en data hi hs => cases hl
  | dispose pa' hi hs => cases hl
  | init pa' columns lines dotSize hi hs =>
    cases hl
    rw [State.remaining, accept_life, accept_pending, pins_ready, eventsOf_initProgram, ← List.append_assoc, ← List.append_assoc,
      hcs]
    rw [hcs] at fields
    exact mirrors_initCommands fields
  | sends pa' r' program hs hp =>
    cases hl
    exact (hm hcs pa r hs).append (readyProgram_sendsNoFlags (hcs ▸ hp))
  | dctrl pa' r' f hi hs =>
    cases hl
    rw [State.remaining, accept_life, accept_pending, hcs]
    exact (hm hcs pa r' hs).with_dctrl fields.dctrl_unused
  | emode pa' r' f hi hs =>
    cases hl
    rw [State.remaining, accept_life, accept_pending, hcs]
    exact (hm hcs pa r' hs).with_emode fields.emode_unused

theorem SameCourse.keeps_mirror {s t : State} (h : SameCourse s t) (hm : Mirror s) : Mirror t := by
  rw [mirror_iff] at hm ⊢
  intro hc pa r hl
  rw [h.events]
  exact hm (h.codes.symm.trans hc) pa r (h.life.symm.trans hl)

/-- Settles O51, by the course of a step: a commit sends the registers it writes, and every other step keeps what is sent. -/
theorem everyStepKeepsTheMirror : Obligations.EveryStepKeepsTheMirror := by
  intro s t inv hm h
  have steps := stepsTo_of_step h
  refine ⟨?_, remaining_of_idle (steps.keeps_invariant inv)⟩
  obtain rfl | ⟨i, rest, hb, hc⟩ | same := steps.course inv
  · exact fun _ _ _ hl => by cases hl
  · exact hc.keeps_mirror (invariant_hostIn inv rest) hb hm
  · exact same.keeps_mirror hm

/-! ## The lines at rest -/

/-- Enable low, and read/write low if present (R160 (a), (b)). -/
def AtRest (pa : PinAssignment) (m : Memory) : Prop :=
  Memory.level m pa.en = some false ∧ ∀ p, pa.rw = some p → Memory.level m p = some false

section AtRest
variable {pa : PinAssignment} {m : Memory} (hd : DistinctPins pa)
include hd

theorem atRest_send (v : Byte) (rs : Level) : AtRest pa (applyEvents (send pa v rs) m) :=
  ⟨level_send_en pa v rs m, fun _ hp => level_send_rw hd hp v rs m⟩

theorem atRest_program {program : List Micro} (h : AtRest pa m) (hp : ∀ u ∈ program, sendsOrWaits u = true) :
    AtRest pa (applyEvents (eventsOf (some pa) program) m) := by
  obtain ⟨en, rw⟩ := h
  have waits := waitsOnly_of_sendsOrWaits hp
  exact ⟨level_en_program waits en, fun p hrw =>
    level_stays_low (rw_not_high_in_program hd hrw (not_emit_wr_of_waitsOnly waits)) (rw p hrw)⟩

/-- INIT ends with the bytes of its four commands, whatever the lines before. -/
theorem atRest_initProgram (c : LcdCodes) (r : DataRegs) : AtRest pa (applyEvents (eventsOf (some pa) (initProgram c pa r)) m) := by
  have bytes : ∀ u ∈ [Micro.sendCommand (displayControlByte c r.dctrl), .sendCommand c.CLEARDISPLAY, wait timing.T_CLEAR,
      .sendCommand (entryModeByte c r.emode)], sendsOrWaits u = true := by
    simp [sendsOrWaits, wait]
  rw [eventsOf_initProgram, applyEvents_append, applyEvents_append, initCommands, eventsOf_cons, applyEvents_append]
  exact atRest_program hd (atRest_send hd _ false) bytes

end AtRest

theorem linesAtRest_iff {s : State} : LinesAtRest s ↔
    ∀ pa r, s.life = .ready pa r → DistinctPins pa → AtRest pa (applyEvents s.remaining s.pins) := Iff.rfl

theorem Commits.keeps_lines {i : Instr} {s t : State} (h : Commits i s t) (inv : Invariant s) (hb : s.busy = false)
    (hlow : LinesAtRest s) : LinesAtRest t := by
  rw [linesAtRest_iff, remaining_of_idle inv hb, applyEvents_nil] at hlow
  rw [linesAtRest_iff]
  intro pa r hl hd
  cases h with
  | refused e ho hr => exact hlow pa r hl hd
  | construct rs rw en data hi hs => cases hl
  | dispose pa' hi hs => cases hl
  | init pa' columns lines dotSize hi hs =>
    cases hl
    exact atRest_initProgram hd s.codes _
  | sends pa' r' program hs hp =>
    cases hl
    exact atRest_program hd (hlow pa r hs hd) (readyProgram_sendsOrWaits hp)
  | dctrl pa' r' f hi hs =>
    cases hl
    exact atRest_program hd (hlow pa r' hs hd) (by simp [sendsOrWaits])
  | emode pa' r' f hi hs =>
    cases hl
    exact atRest_program hd (hlow pa r' hs hd) (by simp [sendsOrWaits])

theorem SameCourse.keeps_lines {s t : State} (h : SameCourse s t) (hlow : LinesAtRest s) : LinesAtRest t := by
  rw [linesAtRest_iff] at hlow ⊢
  rw [h.latches, h.life]
  exact hlow

/-- Settles O52, by the course of a step: every commit ends with the lines low, and every other step keeps the latches its
command ends with. -/
theorem everyStepKeepsTheLinesAtRest : Obligations.EveryStepKeepsTheLinesAtRest := by
  intro s t inv hlow h
  obtain rfl | ⟨i, rest, hb, hc⟩ | same := (stepsTo_of_step h).course inv
  · exact fun _ _ hl => by cases hl
  · exact hc.keeps_lines (invariant_hostIn inv rest) hb hlow
  · exact same.keeps_lines hlow

/-! ## Reset -/

/-- Settles O1, register by register of the reset state. -/
theorem resetLeavesTheSpecsValues : Obligations.ResetLeavesTheSpecsValues :=
  ⟨rfl, rfl, rfl, rfl, rfl, rfl, fun _ => ⟨rfl, rfl⟩⟩

/-- Settles O49: the reset state is idle with an empty program, and outside READY the mirror and the lines ask nothing. -/
theorem resetMeetsTheInvariants : Obligations.ResetMeetsTheInvariants :=
  ⟨invariant_applyReset State.reset, fun _ _ _ => nofun, fun _ _ => nofun⟩

end Sys2Proof.Machine
